-- ==== Sys2Proof/Word.lean ====
section
/-! DEFINITION. The core's word and register-number types (`00_scope.md` R5, R8). -/

namespace Sys2Proof

/-- A word: a 32-bit value (R8). -/
abbrev Word := BitVec 32

/-- A general register's number, 0 to 31 (R11). -/
abbrev Reg := Fin 32

/-- A shift distance, 0 to 31 (the 5-bit `shamt` field, `30_encoding.md` R46). -/
abbrev Shamt := Fin 32

end Sys2Proof
end

