-- ==== Sys2Proof/Config.lean ====
section
/-! DEFINITION. The named parameters of the core, fixed for a whole run (`00_scope.md` R6, R7; `10_state.md` R27).
The parameters are plain data: the machine holds one value of `Params` and no step writes it, so a statement about
every state is a statement about every choice of them. Their reference values stand in `Machine/StartOfRun.lean`. -/

namespace Sys2Proof

/-- The encoding of the trap instruction (R7): its primary opcode and its four trap codes. -/
structure TrapEncoding where
  /-- `TRAP_OPCODE` -/
  opcode : BitVec 6
  /-- `TRAP_CODE_PRINT_NEWLINE` -/
  newline : BitVec 4
  /-- `TRAP_CODE_PRINT_INT` -/
  printInt : BitVec 4
  /-- `TRAP_CODE_READ_INT` -/
  readInt : BitVec 4
  /-- `TRAP_CODE_HALT` -/
  halt : BitVec 4
  deriving DecidableEq, Repr

namespace Machine

/-- Data memory as (word index `k`, word `DMEM[k]`) cells in the canonical form `Memory.wf`: "the model holds words, not
bytes" (`20_memory.md` R36, `10_state.md` R16). Only the words that differ from the blank are listed (log 6). -/
abbrev Memory := List (Nat × Word)

/-- What a word that no cell lists reads as: the reference `DMEM_INIT` is all zero (R6).
DESIGN CHOICE (unsafe for claims about `State.reset` only); log 5. -/
def Memory.blank : Word := 0

/-- The canonical form: word indices strictly rising, and no cell that says what an unlisted word says. -/
abbrev Memory.wf (m : Memory) : Prop :=
  m.Pairwise (fun c d => c.1 < d.1) ∧ ∀ c ∈ m, c.2 ≠ Memory.blank

end Machine

/-- The parameters of R6 and R7 and the instruction image, read-only inputs of a run (R27). -/
structure Params where
  /-- `DMEM_BASE`, the byte address of the first data-memory word -/
  dmemBase : Nat
  /-- `DMEM_SIZE`, the size of data memory in bytes -/
  dmemSize : Nat
  /-- `GP_INIT`, register 28 at the start of the run -/
  gpInit : Word
  /-- `SP_INIT`, register 29 at the start of the run -/
  spInit : Word
  /-- `IMEM_BASE`, the byte address of instruction word 0 -/
  imemBase : Nat
  /-- `IMEM[0 .. IMEM_WORDS-1]`; `IMEM_WORDS` is its length (`20_memory.md` R38) -/
  imem : List Word
  /-- `START_PC`, the initial program counter -/
  startPc : Word
  /-- `DMEM_INIT`, the initial content of data memory (`20_memory.md` R40) -/
  dmemInit : Machine.Memory
  /-- the trap encoding (R7) -/
  trap : TrapEncoding
  deriving DecidableEq, Repr

/-- `IMEM_WORDS` (R6): the number of words in the loaded image. -/
def Params.imemWords (p : Params) : Nat := p.imem.length

end Sys2Proof
end

