-- ==== Sys2Proof/Syntax.lean ====
section
/-! DEFINITION. The 24 instruction forms, one constructor per row of the opcode table (`30_encoding.md` R50), with
exactly the operands the row's rule names. Operand order is the assembler's (R53): destination first. -/

namespace Sys2Proof

/-- The complete instruction set (R50, R52: there is nothing else). -/
inductive Instr where
  /-- SLL, shift left logical (R80) -/
  | sll (rd rt : Reg) (shamt : Shamt)
  /-- SRL, shift right logical (R81) -/
  | srl (rd rt : Reg) (shamt : Shamt)
  /-- SRA, shift right arithmetic (R82) -/
  | sra (rd rt : Reg) (shamt : Shamt)
  /-- JR, jump register (R112) -/
  | jr (rs : Reg)
  /-- MFHI, move from `HI` (R92) -/
  | mfhi (rd : Reg)
  /-- MFLO, move from `LO` (R93) -/
  | mflo (rd : Reg)
  /-- MULT, signed multiply (R90) -/
  | mult (rs rt : Reg)
  /-- DIV, signed divide (R91) -/
  | div (rs rt : Reg)
  /-- ADDU, add without overflow detection (R83) -/
  | addu (rd rs rt : Reg)
  /-- SUBU, subtract without overflow detection (R84) -/
  | subu (rd rs rt : Reg)
  /-- SLT, set on signed less-than (R85) -/
  | slt (rd rs rt : Reg)
  /-- J, unconditional jump (R110) -/
  | j (target : BitVec 26)
  /-- JAL, jump and link (R111) -/
  | jal (target : BitVec 26)
  /-- BEQ, branch if equal (R113) -/
  | beq (rs rt : Reg) (imm : BitVec 16)
  /-- BNE, branch if not equal (R114) -/
  | bne (rs rt : Reg) (imm : BitVec 16)
  /-- ADDIU, add immediate without overflow detection (R100) -/
  | addiu (rt rs : Reg) (imm : BitVec 16)
  /-- ANDI, AND immediate (R101) -/
  | andi (rt rs : Reg) (imm : BitVec 16)
  /-- LUI, load immediate into the high half (R102) -/
  | lui (rt : Reg) (imm : BitVec 16)
  /-- LW, load word (R105) -/
  | lw (rt rs : Reg) (imm : BitVec 16)
  /-- SW, store word (R106) -/
  | sw (rt rs : Reg) (imm : BitVec 16)
  /-- TRAP.NL, print newline (`46_trap.md` R122) -/
  | trapNl
  /-- TRAP.PRINT, print integer (R121) -/
  | trapPrint (rs : Reg)
  /-- TRAP.READ, read integer (R123) -/
  | trapRead (rt : Reg)
  /-- TRAP.HALT, halt (R124) -/
  | trapHalt
  deriving DecidableEq, Repr

end Sys2Proof
end

