-- ==== Sys2Proof/Decode.lean ====
section
/-! DEFINITION. The Decoder (`30_encoding.md`): the total split of a word into fields (R46, R55), the selection of an
instruction form (R49, R50) or a rejection that names what is not implemented (R51); then the encoder, the opcode
table, and the label fields of the assembler forms (R53). Bit positions and numbers are R46's and R50's (PRESUMED
there, MIPS32; log 10); the trap numbers are R7's parameters (log 9). -/

namespace Sys2Proof

/-- The default trap encoding (R7). -/
def TrapEncoding.standard : TrapEncoding :=
  { opcode := 0x1A, newline := 0x0, printInt := 0x1, readInt := 0x5, halt := 0xA }

/-- The Decoder's output (R46): every field is extracted from every word. -/
structure Fields where
  op : BitVec 6
  rs : BitVec 5
  rt : BitVec 5
  rd : BitVec 5
  shamt : BitVec 5
  funct : BitVec 6
  imm16 : BitVec 16
  target26 : BitVec 26
  code4 : BitVec 4
  deriving DecidableEq, Repr

/-- The field positions of R46. -/
def fields (w : Word) : Fields :=
  { op := w.extractLsb' 26 6
    rs := w.extractLsb' 21 5
    rt := w.extractLsb' 16 5
    rd := w.extractLsb' 11 5
    shamt := w.extractLsb' 6 5
    funct := w.extractLsb' 0 6
    imm16 := w.extractLsb' 0 16
    target26 := w.extractLsb' 0 26
    code4 := w.extractLsb' 0 4 }

/-- The general register a 5-bit index names. -/
def regOf (b : BitVec 5) : Reg := b.toFin

/-- Why a word selects no form: "an unimplemented opcode/function/trap code" (R51). -/
inductive Unimplemented where
  /-- `op = 0` and no row has this function code -/
  | functionCode (funct : BitVec 6)
  /-- `op = TRAP_OPCODE` and no row has this trap code -/
  | trapCode (code : BitVec 4)
  /-- no row has this primary opcode -/
  | opcode (op : BitVec 6)
  deriving DecidableEq, Repr

/-- What a word selects. -/
inductive Decoded where
  | instr (i : Instr)
  | unsupported (why : Unimplemented)
  deriving DecidableEq, Repr

/-- The instruction, if one was selected. -/
def Decoded.toOption : Decoded → Option Instr
  | .instr i => some i
  | .unsupported _ => none

/-- The register-format family: "when `op = 0` the instruction is selected by `funct` alone" (R49). -/
def decodeRegister (f : Fields) : Decoded :=
  let rs := regOf f.rs
  let rt := regOf f.rt
  let rd := regOf f.rd
  let sh : Shamt := f.shamt.toFin
  if f.funct = 0x00#6 then .instr (.sll rd rt sh)
  else if f.funct = 0x02#6 then .instr (.srl rd rt sh)
  else if f.funct = 0x03#6 then .instr (.sra rd rt sh)
  else if f.funct = 0x08#6 then .instr (.jr rs)
  else if f.funct = 0x10#6 then .instr (.mfhi rd)
  else if f.funct = 0x12#6 then .instr (.mflo rd)
  else if f.funct = 0x18#6 then .instr (.mult rs rt)
  else if f.funct = 0x1A#6 then .instr (.div rs rt)
  else if f.funct = 0x21#6 then .instr (.addu rd rs rt)
  else if f.funct = 0x23#6 then .instr (.subu rd rs rt)
  else if f.funct = 0x2A#6 then .instr (.slt rd rs rt)
  else .unsupported (.functionCode f.funct)

/-- The trap family: "when `op = TRAP_OPCODE` by `code4` alone" (R49). -/
def decodeTrap (te : TrapEncoding) (f : Fields) : Decoded :=
  if f.code4 = te.newline then .instr .trapNl
  else if f.code4 = te.printInt then .instr (.trapPrint (regOf f.rs))
  else if f.code4 = te.readInt then .instr (.trapRead (regOf f.rt))
  else if f.code4 = te.halt then .instr .trapHalt
  else .unsupported (.trapCode f.code4)

/-- Every other word: "otherwise by `op` alone" (R49). -/
def decodePrimary (f : Fields) : Decoded :=
  let rs := regOf f.rs
  let rt := regOf f.rt
  if f.op = 0x02#6 then .instr (.j f.target26)
  else if f.op = 0x03#6 then .instr (.jal f.target26)
  else if f.op = 0x04#6 then .instr (.beq rs rt f.imm16)
  else if f.op = 0x05#6 then .instr (.bne rs rt f.imm16)
  else if f.op = 0x09#6 then .instr (.addiu rt rs f.imm16)
  else if f.op = 0x0C#6 then .instr (.andi rt rs f.imm16)
  else if f.op = 0x0F#6 then .instr (.lui rt f.imm16)
  else if f.op = 0x23#6 then .instr (.lw rt rs f.imm16)
  else if f.op = 0x2B#6 then .instr (.sw rt rs f.imm16)
  else .unsupported (.opcode f.op)

/-- Dispatch of a word (R49): total, and rejecting by name (R51, R55). -/
def decode (te : TrapEncoding) (w : Word) : Decoded :=
  let f := fields w
  if f.op = 0#6 then decodeRegister f
  else if f.op = te.opcode then decodeTrap te f
  else decodePrimary f

/-- The host's view: the instruction the decoder reads from a table row's bits, under the default trap encoding. -/
def decodeTableWord (nbits w : Nat) : Option Instr :=
  (decode TrapEncoding.standard (BitVec.ofNat 32 (w % 2 ^ nbits))).toOption

/-! ### The encoder: the four formats of R47, ignored bits 0 as R53's table sets them -/

/-- The 5-bit field of a register number or a shift distance. -/
def fieldOf (r : Fin 32) : BitVec 5 := BitVec.ofFin r

/-- Format R (R47). -/
def registerWord (rs rt rd : Reg) (sh : Shamt) (funct : BitVec 6) : Word :=
  0#6 ++ fieldOf rs ++ fieldOf rt ++ fieldOf rd ++ fieldOf sh ++ funct

/-- Format I (R47). -/
def immediateWord (op : BitVec 6) (rs rt : Reg) (imm : BitVec 16) : Word :=
  op ++ fieldOf rs ++ fieldOf rt ++ imm

/-- Format J (R47). -/
def jumpWord (op : BitVec 6) (target : BitVec 26) : Word :=
  op ++ target

/-- Format T (R47). -/
def trapWord (op : BitVec 6) (rs rt : Reg) (code : BitVec 4) : Word :=
  op ++ fieldOf rs ++ fieldOf rt ++ 0#12 ++ code

/-- The word of an instruction (R50, R53). -/
def encode (te : TrapEncoding) : Instr → Word
  | .sll rd rt sh => registerWord 0 rt rd sh 0x00
  | .srl rd rt sh => registerWord 0 rt rd sh 0x02
  | .sra rd rt sh => registerWord 0 rt rd sh 0x03
  | .jr rs => registerWord rs 0 0 0 0x08
  | .mfhi rd => registerWord 0 0 rd 0 0x10
  | .mflo rd => registerWord 0 0 rd 0 0x12
  | .mult rs rt => registerWord rs rt 0 0 0x18
  | .div rs rt => registerWord rs rt 0 0 0x1A
  | .addu rd rs rt => registerWord rs rt rd 0 0x21
  | .subu rd rs rt => registerWord rs rt rd 0 0x23
  | .slt rd rs rt => registerWord rs rt rd 0 0x2A
  | .j target => jumpWord 0x02 target
  | .jal target => jumpWord 0x03 target
  | .beq rs rt imm => immediateWord 0x04 rs rt imm
  | .bne rs rt imm => immediateWord 0x05 rs rt imm
  | .addiu rt rs imm => immediateWord 0x09 rs rt imm
  | .andi rt rs imm => immediateWord 0x0C rs rt imm
  | .lui rt imm => immediateWord 0x0F 0 rt imm
  | .lw rt rs imm => immediateWord 0x23 rs rt imm
  | .sw rt rs imm => immediateWord 0x2B rs rt imm
  | .trapNl => trapWord te.opcode 0 0 te.newline
  | .trapPrint rs => trapWord te.opcode rs 0 te.printInt
  | .trapRead rt => trapWord te.opcode 0 rt te.readInt
  | .trapHalt => trapWord te.opcode 0 0 te.halt

/-! ### The opcode table of R50 -/

/-- A row of R50: "a word `w` selects the row when `w & mask = match`". -/
structure Row where
  mnemonic : String
  bits : Word
  mask : Word
  deriving DecidableEq, Repr

/-- R50's selection of a row by a word. -/
abbrev Row.selects (r : Row) (w : Word) : Prop := w &&& r.mask = r.bits

/-- A register-format row: opcode 0 and a function code. -/
def registerRow (mnemonic : String) (funct : BitVec 6) : Row :=
  ⟨mnemonic, 0#26 ++ funct, 0xFC00003F⟩

/-- An I or J format row: a primary opcode. -/
def primaryRow (mnemonic : String) (op : BitVec 6) : Row :=
  ⟨mnemonic, op ++ 0#26, 0xFC000000⟩

/-- A trap row: the trap opcode and a trap code. -/
def trapRow (mnemonic : String) (op : BitVec 6) (code : BitVec 4) : Row :=
  ⟨mnemonic, op ++ 0#22 ++ code, 0xFC00000F⟩

/-- The row of R50 an instruction form is. -/
def Instr.row (te : TrapEncoding) : Instr → Row
  | .sll _ _ _ => registerRow "SLL" 0x00
  | .srl _ _ _ => registerRow "SRL" 0x02
  | .sra _ _ _ => registerRow "SRA" 0x03
  | .jr _ => registerRow "JR" 0x08
  | .mfhi _ => registerRow "MFHI" 0x10
  | .mflo _ => registerRow "MFLO" 0x12
  | .mult _ _ => registerRow "MULT" 0x18
  | .div _ _ => registerRow "DIV" 0x1A
  | .addu _ _ _ => registerRow "ADDU" 0x21
  | .subu _ _ _ => registerRow "SUBU" 0x23
  | .slt _ _ _ => registerRow "SLT" 0x2A
  | .j _ => primaryRow "J" 0x02
  | .jal _ => primaryRow "JAL" 0x03
  | .beq _ _ _ => primaryRow "BEQ" 0x04
  | .bne _ _ _ => primaryRow "BNE" 0x05
  | .addiu _ _ _ => primaryRow "ADDIU" 0x09
  | .andi _ _ _ => primaryRow "ANDI" 0x0C
  | .lui _ _ => primaryRow "LUI" 0x0F
  | .lw _ _ _ => primaryRow "LW" 0x23
  | .sw _ _ _ => primaryRow "SW" 0x2B
  | .trapNl => trapRow "TRAP.NL" te.opcode te.newline
  | .trapPrint _ => trapRow "TRAP.PRINT" te.opcode te.printInt
  | .trapRead _ => trapRow "TRAP.READ" te.opcode te.readInt
  | .trapHalt => trapRow "TRAP.HALT" te.opcode te.halt

/-- The 24 rows of R50, in its order, under a trap encoding. -/
def opcodeTable (te : TrapEncoding) : List Row :=
  [registerRow "SLL" 0x00, registerRow "SRL" 0x02, registerRow "SRA" 0x03, registerRow "JR" 0x08] ++
  [registerRow "MFHI" 0x10, registerRow "MFLO" 0x12, registerRow "MULT" 0x18, registerRow "DIV" 0x1A] ++
  [registerRow "ADDU" 0x21, registerRow "SUBU" 0x23, registerRow "SLT" 0x2A] ++
  [primaryRow "J" 0x02, primaryRow "JAL" 0x03, primaryRow "BEQ" 0x04, primaryRow "BNE" 0x05] ++
  [primaryRow "ADDIU" 0x09, primaryRow "ANDI" 0x0C, primaryRow "LUI" 0x0F] ++
  [primaryRow "LW" 0x23, primaryRow "SW" 0x2B] ++
  [trapRow "TRAP.NL" te.opcode te.newline, trapRow "TRAP.PRINT" te.opcode te.printInt] ++
  [trapRow "TRAP.READ" te.opcode te.readInt, trapRow "TRAP.HALT" te.opcode te.halt]

/-- The bits of a word its form looks at: the dispatch bits of its row and the operand fields its rule uses; every
other bit is ignored (R49). -/
def Instr.usedBits (te : TrapEncoding) (i : Instr) : Word :=
  (i.row te).mask ||| match i with
    | .sll _ _ _ | .srl _ _ _ | .sra _ _ _ => 0x001FFFC0
    | .jr _ => 0x03E00000
    | .mfhi _ | .mflo _ => 0x0000F800
    | .mult _ _ | .div _ _ => 0x03FF0000
    | .addu _ _ _ | .subu _ _ _ | .slt _ _ _ => 0x03FFF800
    | .j _ | .jal _ => 0x03FFFFFF
    | .beq _ _ _ | .bne _ _ _ | .addiu _ _ _ | .andi _ _ _ | .lw _ _ _ | .sw _ _ _ => 0x03FFFFFF
    | .lui _ _ => 0x001FFFFF
    | .trapPrint _ => 0x03E00000
    | .trapRead _ => 0x001F0000
    | .trapNl | .trapHalt => 0

/-! ### The fields a label resolves to (R53) -/

/-- `target26 = label[27:2]`. -/
def jumpField (label : Word) : BitVec 26 := label.extractLsb' 2 26

/-- `imm16 = ((label - (addr+4)) / 4)[15:0]`, `addr` the branch's own address. -/
def branchField (addr label : Word) : BitVec 16 := (label - (addr + 4)).extractLsb' 2 16

end Sys2Proof
end

