-- ==== Sys2Proof/Machine/StartOfRun.lean ====
section
/-! DEFINITION. The reference configuration (`00_scope.md` R6, R7) and the general registers at the start of a run
(`10_state.md` R26). The reference numbers are the spec's own choice (D17, D18): DESIGN CHOICE (unsafe for claims
that use `State.reset`; every other claim holds for every value of them); log 3. -/

namespace Sys2Proof

/-- The reference values of R6 and R7. No program is invented: the image is empty until a loader places one
(log 4), and nothing is listed in `DMEM_INIT` (log 5). -/
def Params.reference : Params :=
  { dmemBase := 0x10000000
    dmemSize := 0x00010000
    gpInit := 0x10008000
    spInit := 0x10010000
    imemBase := 0x00400000
    imem := []
    startPc := 0x00400000
    dmemInit := []
    trap := TrapEncoding.standard }

namespace Machine

/-- "Register 28 and 29 are initialized to fixed architectural constants ...; all others start at zero" (R26). -/
def startRegs (p : Params) : Vector Word 32 :=
  ((Vector.replicate 32 0).set 28 p.gpInit).set 29 p.spInit

end Machine

end Sys2Proof
end

