-- ==== Sys2Proof/Machine/State.lean ====
section
/-! DEFINITION. The state of the core (`10_state.md` R10), the run status and the fatal conditions
(`60_exceptions.md` R130), the console tokens (`46_trap.md` R120), and the start of a run (R26, R150). -/

namespace Sys2Proof.Machine

/-- A tracker index (R18): a general register, or `ACC`, the accumulator pair. -/
inductive TrackIdx where
  | gpr (r : Reg)
  | acc
  deriving DecidableEq, Repr

/-- The number of a tracker index: 0 to 31 for the registers, 32 for `ACC` (R18). -/
def TrackIdx.number : TrackIdx → Nat
  | .gpr r => r.val
  | .acc => 32

/-- One slot of the Hazard Tracker (R17): `dest[i]` (`none` is the sentinel `NONE`) and `cyc[i]`. -/
structure Slot where
  dest : Option TrackIdx
  cyc : Nat
  deriving DecidableEq, Repr

/-- The Hazard Tracker: 8 slots, slot 0 the youngest (R17, R19(a)). -/
abbrev Tracker := Vector Slot 8

/-- The entry of a bubble, `NONE` with count 0 (`40_step_and_tracker.md` R64). -/
def Slot.bubble : Slot := ⟨none, 0⟩

/-- The empty tracker (R26). -/
def Tracker.empty : Tracker := Vector.replicate 8 Slot.bubble

/-- Why a data address is invalid (`20_memory.md` R33). -/
inductive AccessReason where
  | unaligned
  | outOfBounds
  deriving DecidableEq, Repr

/-- The four fatal conditions with their recorded context (R130). -/
inductive Fatal where
  /-- "program counter outside the loaded instruction image", or misaligned (R39) -/
  | fetchRange (pc : Word)
  /-- "unaligned or out-of-bounds load/store address" -/
  | dataAccess (pc ea : Word) (reason : AccessReason)
  /-- "division by zero" -/
  | arithmetic (pc : Word)
  /-- "opcode, function code, or trap code not in the implemented set" -/
  | unsupported (pc w : Word)
  deriving DecidableEq, Repr

/-- The run status (R21). -/
inductive Status where
  | running
  | halted
  | faulted (f : Fatal)
  deriving DecidableEq, Repr

/-- What the core hands the console (`46_trap.md` R120): an integer, presented as `signed(v)`, or a newline. -/
inductive Token where
  | int (v : Int)
  | newline
  deriving DecidableEq, Repr

/-- The state of the core (R10), with the read-only inputs of the run (R27; log 3) and the console as the core sees it
(R120; log 7, log 8). -/
structure State where
  /-- the parameters and the instruction image (R6, R7, R27) -/
  params : Params
  /-- `x[0..31]` (R11) -/
  regs : Vector Word 32
  /-- `HI` (R14) -/
  hi : Word
  /-- `LO` (R14) -/
  lo : Word
  /-- the program counter (R15) -/
  pc : Word
  /-- `DMEM` (R16) -/
  dmem : Memory
  /-- `dest[0..7]` and `cyc[0..7]` (R17) -/
  tracker : Tracker
  /-- instructions executed (R20) -/
  instructions : Nat
  /-- accumulated bubble cycles (R20) -/
  bubbles : Nat
  /-- accumulated flush cycles (R20) -/
  flushes : Nat
  /-- the run status (R21) -/
  status : Status
  /-- the console's answers not yet taken, oldest first (R120, R123) -/
  consoleIn : List Word
  /-- the console trace, oldest first (R120) -/
  consoleOut : List Token
  deriving DecidableEq, Repr

/-- The machine stops with a fault: NEVER. Each of the four fatal conditions is a transition the spec describes
(R131: `status <- FAULTED(kind, info)` and nothing else), so the model takes it as a next state (safe; log 1). -/
inductive Fault where
  deriving DecidableEq, Repr

/-- Reasons a step has no meaning. -/
inductive Refusal where
  /-- Raised by an arm of `exec` whose instruction has no meaning yet (safe). No arm raises it: every row of the opcode
  table has its meaning. -/
  | notModelled (mnemonic : String)
  deriving DecidableEq, Repr

/-- The start of a run (R26, R150) for any parameters and any image. -/
def State.start (p : Params) : State :=
  { params := p
    regs := startRegs p
    hi := 0
    lo := 0
    pc := p.startPc
    dmem := p.dmemInit
    tracker := Tracker.empty
    instructions := 0
    bubbles := 0
    flushes := 0
    status := .running
    consoleIn := []
    consoleOut := [] }

/-- The machine right after the start of a run in the reference configuration, nothing loaded (log 3, log 4). -/
def State.reset : State := State.start Params.reference

end Sys2Proof.Machine
end

