-- ==== Sys2Proof/Machine/Ops.lean ====
section
/-! DEFINITION. The named operations every meaning is written over: registers (`10_state.md` R11), data memory and
fetch (`20_memory.md`), the Hazard Tracker and the counters (`40_step_and_tracker.md` R62 to R70), raising a fatal
condition (`60_exceptions.md` R131), the console port (`46_trap.md` R120). -/

namespace Sys2Proof.Machine

/-- The type of every meaning and of a step. -/
abbrev Result := Host.Outcome State Fault Refusal

/-! ### Registers and the program counter -/

/-- `x[r]`: "`x[0]` always reads 0" (R8, R11). -/
def State.reg (s : State) (r : Reg) : Word :=
  if r = 0 then 0 else s.regs[r]

/-- `x[r] <- v`: "a write with `i = 0` is discarded" (R8, R11). -/
def State.writeReg (s : State) (r : Reg) (v : Word) : State :=
  { s with regs := if r = 0 then s.regs else s.regs.set r v }

/-- `HI` and `LO`, "always written together" (R14, R94). -/
def State.writeAcc (s : State) (hi lo : Word) : State :=
  { s with hi := hi, lo := lo }

/-- `pc <- t` (R8). -/
def State.setPc (s : State) (t : Word) : State :=
  { s with pc := t }

/-- The address after the instruction at `pc`, modulo `2^32` (R15, D34). -/
def State.nextPc (s : State) : Word := s.pc + 4

/-- `pc <- pc + 4` (R15). -/
def State.advancePc (s : State) : State := s.setPc s.nextPc

/-! ### Fatal conditions -/

/-- Raising a fatal condition, "`status <- FAULTED(kind, info)` and nothing else" (R72, R131): a meaning raises on the
state its step began in, so nothing of the step is committed. There is no handler to go to and no return (R137). -/
def State.raise (s : State) (f : Fatal) : Result :=
  .next { s with status := .faulted f }

/-- A step of a core that is not running: "in `HALTED` and `FAULTED` the core does nothing for ever, and all state
keeps its value" (R60; log 2). -/
def State.idle (s : State) : Result := .next s

/-! ### Data memory: an array of words -/

/-- The word at an index. -/
def Memory.read : Memory → Nat → Word
  | [], _ => Memory.blank
  | (j, v) :: rest, k => if j = k then v else Memory.read rest k

/-- A cell in front of a memory, left out where it would say what an unlisted word says. -/
def Memory.put (k : Nat) (v : Word) (rest : Memory) : Memory :=
  if v = Memory.blank then rest else (k, v) :: rest

/-- The memory with one word written, in canonical form. -/
def Memory.write : Memory → Nat → Word → Memory
  | [], k, v => Memory.put k v []
  | (j, u) :: rest, k, v =>
    if k < j then Memory.put k v ((j, u) :: rest)
    else if k = j then Memory.put k v rest
    else (j, u) :: Memory.write rest k v

/-- The memory that holds the words of a list from index `k` up, and nothing else. -/
def Memory.ofWords (k : Nat) : List Word → Memory
  | [] => []
  | v :: rest => Memory.put k v (Memory.ofWords (k + 1) rest)

/-- R31's check of a data address: `none` if it is valid, else the reason, `unaligned` before `out_of_bounds` (R35). -/
def State.badAddress (s : State) (ea : Word) : Option AccessReason :=
  if ea.toNat % 4 ≠ 0 then some .unaligned
  else if s.params.dmemBase ≤ ea.toNat ∧ ea.toNat < s.params.dmemBase + s.params.dmemSize then none
  else some .outOfBounds

/-- The word index of a data address, `k = (unsigned(addr) - DMEM_BASE) / 4` (R31). -/
def State.wordIndex (s : State) (ea : Word) : Nat := (ea.toNat - s.params.dmemBase) / 4

/-- `DMEM[k]`, "word `k` is the word at byte address `DMEM_BASE + 4*k`" (R16). -/
def State.dmemWord (s : State) (k : Nat) : Word := s.dmem.read k

/-- `DMEM[0 .. DMEM_SIZE/4 - 1]`, data memory written out as "an array of `DMEM_SIZE / 4` words of 32 bits" (R16). -/
def State.dmemArray (s : State) : List Word :=
  (List.range (s.params.dmemSize / 4)).map s.dmemWord

/-- `LoadWord(addr)`: "the result is `DMEM[k]`" (R33). -/
def State.loadWord (s : State) (ea : Word) : Except AccessReason Word :=
  match s.badAddress ea with
  | some reason => .error reason
  | none => .ok (s.dmemWord (s.wordIndex ea))

/-- `StoreWord(v, addr)`: "`DMEM[k] <- v`" (R34). -/
def State.storeWord (s : State) (v ea : Word) : Except AccessReason State :=
  match s.badAddress ea with
  | some reason => .error reason
  | none => .ok { s with dmem := s.dmem.write (s.wordIndex ea) v }

/-! ### Instruction fetch -/

/-- `IFetch(pc)` (R39): `none` is the fetch range error. It reads only the image (R41). -/
def State.ifetch (s : State) : Option Word :=
  if s.pc.toNat % 4 ≠ 0 ∨ s.pc.toNat < s.params.imemBase then none
  else s.params.imem[(s.pc.toNat - s.params.imemBase) / 4]?

/-! ### The Hazard Tracker and the counters -/

/-- The stage at which an ordinary register operand is needed (R65). -/
def stageOperand : Nat := 3
/-- The stage at which the data operand of SW is needed (R65, D10). -/
def stageStoreData : Nat := 4
/-- The stage at which an ordinary result is available (R66, D14). -/
def stageAlu : Nat := 4
/-- The stage at which a load's result is available (R66). -/
def stageLoad : Nat := 6
/-- The stage at which a multiply's or divide's result is available (R66). -/
def stageMulDiv : Nat := 7
/-- The cycles a taken control transfer costs (R5, R70). -/
def flushPenalty : Nat := 2
/-- The pipeline-fill constant (R5, R24). -/
def pipelineFill : Nat := 7

/-- A slot after one cycle: its count decremented, "floored at zero" (R62). -/
def Slot.aged (e : Slot) : Slot := { e with cyc := e.cyc - 1 }

/-- `Advance(d, a)` (R62): every count decremented, all entries one slot older, the new entry in slot 0. -/
def Tracker.advance (t : Tracker) (d : Option TrackIdx) (a : Nat) : Tracker :=
  Vector.ofFn fun i => if i.val = 0 then ⟨d, a⟩ else (t[i.val - 1]).aged

/-- `CheckDependency(r, n)` (R63): the first slot from 0 that holds `r` decides. -/
def Tracker.check (t : Tracker) (r : TrackIdx) (n : Nat) : Nat :=
  match t.toList.find? (fun e => e.dest = some r) with
  | some e => e.cyc - n
  | none => 0

/-- `k` bubble entries, `Advance(NONE, 0)` each (R64). -/
def Tracker.bubbles (t : Tracker) : Nat → Tracker
  | 0 => t
  | k + 1 => (t.advance none 0).bubbles k

/-- The tracker after the bubbles of `Stall(r, n)` (R68). -/
def Tracker.stalled (t : Tracker) (r : TrackIdx) (n : Nat) : Tracker :=
  t.bubbles (t.check r n)

/-- `Stall(r, n)` (R68): the dependency check of one register operand, with its bubbles. -/
def State.stall (s : State) (r : TrackIdx) (n : Nat) : State :=
  { s with
    tracker := s.tracker.stalled r n
    bubbles := s.bubbles + s.tracker.check r n }

/-- `Retire(d, a)` (R69): the instruction counted and its own entry recorded. -/
def State.retire (s : State) (d : Option TrackIdx) (a : Nat) : State :=
  { s with
    instructions := s.instructions + 1
    tracker := s.tracker.advance d a }

/-- `Flush()` (R70): the control-transfer penalty. -/
def State.flush (s : State) : State :=
  { s with
    flushes := s.flushes + flushPenalty
    tracker := s.tracker.bubbles flushPenalty }

/-- `status <- HALTED` (`46_trap.md` R124). -/
def State.halt (s : State) : State :=
  { s with status := .halted }

/-! ### The console port (`46_trap.md` R120) -/

/-- `ConsoleOutInt(v)`: presented as the signed integer (D28). -/
def State.consoleOutInt (s : State) (v : Word) : State :=
  { s with consoleOut := s.consoleOut ++ [.int v.toInt] }

/-- `ConsoleOutNewline()`. -/
def State.consoleOutNewline (s : State) : State :=
  { s with consoleOut := s.consoleOut ++ [.newline] }

/-- `ConsoleInInt()`: the console's next answer and the state with it taken; `none` while the console has not
answered (R120: it "blocks the single thread until input is provided"; log 7). -/
def State.consoleInInt (s : State) : Option (Word × State) :=
  match s.consoleIn with
  | [] => none
  | v :: rest => some (v, { s with consoleIn := rest })

/-- The step of TRAP.READ while the console has not answered: "nothing else happens, until the console answers" and
"all state survives the wait unchanged" (R120, R145; log 7). -/
def State.waitForConsole (s : State) : Result := .next s

/-- The outside's side of the port: the console has more answers ready. -/
def State.supplyInput (s : State) (vs : List Word) : State :=
  { s with consoleIn := s.consoleIn ++ vs }

end Sys2Proof.Machine
end

