-- ==== Sys2Proof/Machine/Operands.lean ====
section
/-! DEFINITION. Operand assembly (`30_encoding.md` R48), the addressing mode (`44_loadstore.md` R107) and the targets of
control transfers (`45_control.md` R110 to R114). -/

namespace Sys2Proof.Machine

/-- `simm = sext_32(imm16)` (R48). -/
def simm (imm : BitVec 16) : Word := imm.signExtend 32

/-- `uimm = zext_32(imm16)` (R48). -/
def uimm (imm : BitVec 16) : Word := imm.zeroExtend 32

/-- `{imm16, 0^16}`: `imm16` in bits 31:16 (R48, R102). -/
def highImm (imm : BitVec 16) : Word := imm ++ 0#16

/-- `joff = {target26, 00}`, the "word-aligned jump offset" (R48). -/
def joff (target : BitVec 26) : BitVec 28 := target ++ 0#2

/-- `simm << 2`, a word displacement (R48). -/
def branchOffset (imm : BitVec 16) : Word := simm imm <<< 2

/-- `ea = (x[rs] + sext_32(imm16))[31:0]` (R107). -/
def State.effectiveAddress (s : State) (rs : Reg) (imm : BitVec 16) : Word :=
  s.reg rs + simm imm

/-- `{(pc + 4)[31:28], target26, 00}` (R110, R111, D9). -/
def State.jumpTarget (s : State) (target : BitVec 26) : Word :=
  s.nextPc.extractLsb' 28 4 ++ joff target

/-- `pc + 4 + (sext_32(imm16) << 2)` (R113, R114, D8). -/
def State.branchTarget (s : State) (imm : BitVec 16) : Word :=
  s.nextPc + branchOffset imm

/-- `Stall` of one general register operand. -/
def State.need (s : State) (r : Reg) : State :=
  s.stall (.gpr r) stageOperand

/-- `Stall` of the two general register operands of an instruction, `rs` first and `rt` second (R71). -/
def State.need2 (s : State) (rs rt : Reg) : State :=
  (s.need rs).need rt

/-- The end of an instruction that writes one general register and goes on: the write, `Retire(d, a)`, `pc + 4`. -/
def State.finishReg (s : State) (d : Reg) (v : Word) (a : Nat) : Result :=
  .next (((s.writeReg d v).retire (some (.gpr d)) a).advancePc)

/-- The end of an instruction that writes no register and goes on: `Retire(NONE, 0)`, `pc + 4`. -/
def State.finishNone (s : State) : Result :=
  .next ((s.retire none 0).advancePc)

/-- The end of a control transfer taken to `t`: `Retire(d, a)`, then `Flush()`, then `pc <- t` (R70, R115(b)). -/
def State.finishTransfer (s : State) (d : Option TrackIdx) (a : Nat) (t : Word) : Result :=
  .next (((s.retire d a).flush).setPc t)

/-- The end of a conditional branch: taken, a transfer with no destination; untaken, `pc + 4` (R113, R114). -/
def State.finishBranch (s : State) (taken : Bool) (imm : BitVec 16) : Result :=
  if taken then s.finishTransfer none 0 (s.branchTarget imm) else s.finishNone

end Sys2Proof.Machine
end

