-- ==== Sys2Proof/Machine/Flags.lean ====
section
/-! DEFINITION. The core has no flags and no condition codes (`10_state.md` R22): "The signed-less-than compare writes its
0 or 1 result into a general register; branches compare two general registers directly". These are the two
comparisons, and the arithmetic whose exact result is narrowed: the product (`42_muldiv.md` R90), the quotient and
the remainder (R91), the right shift of the sign (`41_alu_register.md` R82). -/

namespace Sys2Proof.Machine

/-- `(signed(a) < signed(b)) ? 1 : 0` (R85). -/
def setLessThan (a b : Word) : Word := if a.toInt < b.toInt then 1 else 0

/-- All 32 bits equal (R113). -/
def wordsEqual (a b : Word) : Bool := a == b

/-- `P`, the 64-bit two's-complement pattern of the mathematical signed product (R90). -/
def signedProduct (a b : Word) : BitVec 64 := BitVec.ofInt 64 (a.toInt * b.toInt)

/-- `P[63:32]` (R90). -/
def productHigh (a b : Word) : Word := (signedProduct a b).extractLsb' 32 32

/-- `P[31:0]` (R90). -/
def productLow (a b : Word) : Word := (signedProduct a b).extractLsb' 0 32

/-- `q mod 2^32`, `q` the mathematical quotient rounded toward zero (R91; also of `-2^31 / -1`, D5; log 12). -/
def quotientWord (n m : Word) : Word := BitVec.ofInt 32 (n.toInt.tdiv m.toInt)

/-- `r mod 2^32`, `r = n - q * m` (R91). -/
def remainderWord (n m : Word) : Word := BitVec.ofInt 32 (n.toInt - n.toInt.tdiv m.toInt * m.toInt)

/-- `(v << shamt)[31:0]` (R80). -/
def shiftLeft (v : Word) (sh : Shamt) : Word := v <<< sh.val

/-- `{0^shamt, v[31:shamt]}` (R81). -/
def shiftRightLogical (v : Word) (sh : Shamt) : Word := v >>> sh.val

/-- `{v[31]^shamt, v[31:shamt]}` (R82). -/
def shiftRightArith (v : Word) (sh : Shamt) : Word := v.sshiftRight sh.val

end Sys2Proof.Machine
end

