-- ==== Sys2Proof/Machine/AluRegister.lean ====
section
/-! DEFINITION. Register-format ALU: SLL, SRL, SRA, ADDU, SUBU, SLT (`41_alu_register.md` R80 to R86). -/

namespace Sys2Proof.Machine

/-- SLL (R80). -/
def execSll (rd rt : Reg) (sh : Shamt) (s : State) : Result :=
  (s.need rt).finishReg rd (shiftLeft (s.reg rt) sh) stageAlu

/-- SRL (R81). -/
def execSrl (rd rt : Reg) (sh : Shamt) (s : State) : Result :=
  (s.need rt).finishReg rd (shiftRightLogical (s.reg rt) sh) stageAlu

/-- SRA (R82). -/
def execSra (rd rt : Reg) (sh : Shamt) (s : State) : Result :=
  (s.need rt).finishReg rd (shiftRightArith (s.reg rt) sh) stageAlu

/-- ADDU (R83): modulo `2^32`, no overflow is detected (R86). -/
def execAddu (rd rs rt : Reg) (s : State) : Result :=
  (s.need2 rs rt).finishReg rd (s.reg rs + s.reg rt) stageAlu

/-- SUBU (R84): modulo `2^32`, no overflow is detected (R86). -/
def execSubu (rd rs rt : Reg) (s : State) : Result :=
  (s.need2 rs rt).finishReg rd (s.reg rs - s.reg rt) stageAlu

/-- SLT (R85). -/
def execSlt (rd rs rt : Reg) (s : State) : Result :=
  (s.need2 rs rt).finishReg rd (setLessThan (s.reg rs) (s.reg rt)) stageAlu

end Sys2Proof.Machine
end

