-- ==== Sys2Proof/Machine/Control.lean ====
section
/-! DEFINITION. Control transfer: J, JAL, JR, BEQ, BNE (`45_control.md` R110 to R115). There is no delay slot, and no
transfer checks its target (R115(a), (d)). -/

namespace Sys2Proof.Machine

/-- J (R110). -/
def execJ (target : BitVec 26) (s : State) : Result :=
  s.finishTransfer none 0 (s.jumpTarget target)

/-- JAL (R111): register 31 takes the address of the instruction after the JAL. -/
def execJal (target : BitVec 26) (s : State) : Result :=
  (s.writeReg 31 s.nextPc).finishTransfer (some (.gpr 31)) stageAlu (s.jumpTarget target)

/-- JR (R112): "all 32 bits, unchecked". -/
def execJr (rs : Reg) (s : State) : Result :=
  (s.need rs).finishTransfer none 0 (s.reg rs)

/-- BEQ (R113). -/
def execBeq (rs rt : Reg) (imm : BitVec 16) (s : State) : Result :=
  (s.need2 rs rt).finishBranch (wordsEqual (s.reg rs) (s.reg rt)) imm

/-- BNE (R114). -/
def execBne (rs rt : Reg) (imm : BitVec 16) (s : State) : Result :=
  (s.need2 rs rt).finishBranch (!wordsEqual (s.reg rs) (s.reg rt)) imm

end Sys2Proof.Machine
end

