-- ==== Sys2Proof/Machine/Immediate.lean ====
section
/-! DEFINITION. Immediate instructions: ADDIU, ANDI, LUI (`43_immediate.md` R100 to R102). -/

namespace Sys2Proof.Machine

/-- ADDIU (R100). -/
def execAddiu (rt rs : Reg) (imm : BitVec 16) (s : State) : Result :=
  (s.need rs).finishReg rt (s.reg rs + simm imm) stageAlu

/-- ANDI (R101). -/
def execAndi (rt rs : Reg) (imm : BitVec 16) (s : State) : Result :=
  (s.need rs).finishReg rt (s.reg rs &&& uimm imm) stageAlu

/-- LUI (R102): it reads no register and makes no dependency check. -/
def execLui (rt : Reg) (imm : BitVec 16) (s : State) : Result :=
  s.finishReg rt (highImm imm) stageAlu

end Sys2Proof.Machine
end

