-- ==== Sys2Proof/Machine/LoadStore.lean ====
section
/-! DEFINITION. Word load and store: LW, SW (`44_loadstore.md` R105 to R107). -/

namespace Sys2Proof.Machine

/-- LW (R105): an invalid address raises `DataAccessError` and discards the whole step (R72). -/
def execLw (rt rs : Reg) (imm : BitVec 16) (s : State) : Result :=
  match s.loadWord (s.effectiveAddress rs imm) with
  | .error reason => s.raise (.dataAccess s.pc (s.effectiveAddress rs imm) reason)
  | .ok v => (s.need rs).finishReg rt v stageLoad

/-- SW (R106): the base is needed at stage 3, the data at stage 4; an invalid address raises `DataAccessError` and
discards the whole step (R72). -/
def execSw (rt rs : Reg) (imm : BitVec 16) (s : State) : Result :=
  match ((s.need rs).stall (.gpr rt) stageStoreData).storeWord (s.reg rt) (s.effectiveAddress rs imm) with
  | .error reason => s.raise (.dataAccess s.pc (s.effectiveAddress rs imm) reason)
  | .ok s' => s'.finishNone

end Sys2Proof.Machine
end

