-- ==== Sys2Proof/Machine/MulDiv.lean ====
section
/-! DEFINITION. Multiply, divide and the accumulator moves: MULT, DIV, MFHI, MFLO (`42_muldiv.md` R90 to R94). -/

namespace Sys2Proof.Machine

/-- The end of MULT and DIV: both accumulators written, `Retire(ACC, 7)`, `pc + 4` (R94). -/
def State.finishAcc (s : State) (hi lo : Word) : Result :=
  .next (((s.writeAcc hi lo).retire (some .acc) stageMulDiv).advancePc)

/-- MULT (R90). -/
def execMult (rs rt : Reg) (s : State) : Result :=
  (s.need2 rs rt).finishAcc (productHigh (s.reg rs) (s.reg rt)) (productLow (s.reg rs) (s.reg rt))

/-- DIV (R91): a zero divisor raises `ArithmeticError` and discards the whole step (R72). -/
def execDiv (rs rt : Reg) (s : State) : Result :=
  if s.reg rt = 0 then s.raise (.arithmetic s.pc)
  else (s.need2 rs rt).finishAcc (remainderWord (s.reg rs) (s.reg rt)) (quotientWord (s.reg rs) (s.reg rt))

/-- MFHI (R92). -/
def execMfhi (rd : Reg) (s : State) : Result :=
  (s.stall .acc stageOperand).finishReg rd s.hi stageAlu

/-- MFLO (R93). -/
def execMflo (rd : Reg) (s : State) : Result :=
  (s.stall .acc stageOperand).finishReg rd s.lo stageAlu

end Sys2Proof.Machine
end

