-- ==== Sys2Proof/Machine/Trap.lean ====
section
/-! DEFINITION. The trap instructions: TRAP.NL, TRAP.PRINT, TRAP.READ, TRAP.HALT (`46_trap.md` R120 to R125). They are
ordinary instructions, not exceptions. -/

namespace Sys2Proof.Machine

/-- TRAP.NL (R122). -/
def execTrapNl (s : State) : Result :=
  s.consoleOutNewline.finishNone

/-- TRAP.PRINT (R121). -/
def execTrapPrint (rs : Reg) (s : State) : Result :=
  ((s.need rs).consoleOutInt (s.reg rs)).finishNone

/-- TRAP.READ (R123): it waits while the console has not answered (log 7). -/
def execTrapRead (rt : Reg) (s : State) : Result :=
  match s.consoleInInt with
  | none => s.waitForConsole
  | some (v, s') => s'.finishReg rt v stageAlu

/-- TRAP.HALT (R124): counted, `pc + 4`, `HALTED`. -/
def execTrapHalt (s : State) : Result :=
  s.halt.finishNone

end Sys2Proof.Machine
end

