-- ==== Sys2Proof/Machine/Loader.lean ====
section
/-! DEFINITION. The image loader's side of the interface (`20_memory.md` R38, `70_reset_and_hazards.md` R152): how a
program word comes to stand where the next step fetches. A load from outside the machine, never a step (log 4). -/

namespace Sys2Proof.Machine

/-- The program counter with its two low bits clear: the only kind of address a word of the image stands at (R39). -/
def alignPc (pc : Word) : Word := pc &&& 0xFFFFFFFC

/-- Whether the next fetch finds a word of the loaded image (R39). -/
def State.fetchable (s : State) : Bool := s.ifetch.isSome

/-- The image with `w` as the word the next fetch reads: in place where the pc already stands inside the image, else
as a loaded image of that one word at the (aligned) pc. -/
def State.loadAtPc (s : State) (w : Word) : State :=
  if s.fetchable then
    { s with
      status := .running
      params := { s.params with imem := s.params.imem.set ((s.pc.toNat - s.params.imemBase) / 4) w } }
  else
    { s with
      status := .running
      pc := alignPc s.pc
      params := { s.params with imemBase := (alignPc s.pc).toNat, imem := [w] } }

/-- The parameters with `DMEM_INIT` given as words, the words of data memory from `DMEM_BASE` up (R40); a word the list
does not reach holds the blank (log 5). -/
def withData (p : Params) (words : List Word) : Params :=
  { p with dmemInit := Memory.ofWords 0 words }

/-- A start of the run's parameters with a program loaded: words at `IMEM_BASE` (R38). -/
def withProgram (p : Params) (program : List Word) : Params :=
  { p with imem := program }

end Sys2Proof.Machine
end

