-- ==== Sys2Proof/Machine/Step.lean ====
section
/-! DEFINITION. One step (`40_step_and_tracker.md` R60, R61), and the host's placing of one instruction. -/

namespace Sys2Proof.Machine

/-- One step: "a step exists only when `status = RUNNING`"; fetch, decode and dispatch, then the rule of the selected
instruction. Fetch is judged before dispatch (`60_exceptions.md` R136). -/
def step (s : State) : Host.Outcome State Fault Refusal :=
  match s.status with
  | .halted => s.idle
  | .faulted _ => s.idle
  | .running =>
    match s.ifetch with
    | none => s.raise (.fetchRange s.pc)
    | some w =>
      match decode s.params.trap w with
      | .unsupported _ => s.raise (.unsupported s.pc w)
      | .instr i => exec i s

/-- `s` with the instruction of these bits where the next step fetches, loaded from outside (log 4). -/
def State.withFetchWord (s : State) (nbits w : Nat) : State :=
  s.loadAtPc (BitVec.ofNat 32 (w % 2 ^ nbits))

end Sys2Proof.Machine
end

