-- ==== Sys2Proof/Machine/Asm.lean ====
section
/-! DEFINITION. The assembler text of an instruction (`30_encoding.md` R53): registers `$n`, operands separated by commas,
destination first, immediates in decimal. A label is written as its address in decimal (DESIGN CHOICE, safe; log 24).
No pseudo-instruction exists (R54). -/

namespace Sys2Proof.Machine

/-- `$n` (R53). -/
def asmReg (r : Reg) : String := "$" ++ toString r.val

/-- Operands separated by commas (R53). -/
def asmLine (mnemonic : String) (operands : List String) : String :=
  if operands.isEmpty then mnemonic else mnemonic ++ " " ++ String.intercalate "," operands

/-- `imm($s)` (R53). -/
def asmAddress (rs : Reg) (imm : BitVec 16) : String :=
  toString imm.toInt ++ "(" ++ asmReg rs ++ ")"

/-- The text of an instruction at the program counter of a state (a label operand is an address, R53). -/
def State.asm (s : State) : Instr → String
  | .sll rd rt sh => asmLine "sll" [asmReg rd, asmReg rt, toString sh.val]
  | .srl rd rt sh => asmLine "srl" [asmReg rd, asmReg rt, toString sh.val]
  | .sra rd rt sh => asmLine "sra" [asmReg rd, asmReg rt, toString sh.val]
  | .jr rs => asmLine "jr" [asmReg rs]
  | .mfhi rd => asmLine "mfhi" [asmReg rd]
  | .mflo rd => asmLine "mflo" [asmReg rd]
  | .mult rs rt => asmLine "mult" [asmReg rs, asmReg rt]
  | .div rs rt => asmLine "div" [asmReg rs, asmReg rt]
  | .addu rd rs rt => asmLine "addu" [asmReg rd, asmReg rs, asmReg rt]
  | .subu rd rs rt => asmLine "subu" [asmReg rd, asmReg rs, asmReg rt]
  | .slt rd rs rt => asmLine "slt" [asmReg rd, asmReg rs, asmReg rt]
  | .j target => asmLine "j" [toString (s.jumpTarget target).toNat]
  | .jal target => asmLine "jal" [toString (s.jumpTarget target).toNat]
  | .beq rs rt imm => asmLine "beq" [asmReg rs, asmReg rt, toString (s.branchTarget imm).toNat]
  | .bne rs rt imm => asmLine "bne" [asmReg rs, asmReg rt, toString (s.branchTarget imm).toNat]
  | .addiu rt rs imm => asmLine "addiu" [asmReg rt, asmReg rs, toString imm.toInt]
  | .andi rt rs imm => asmLine "andi" [asmReg rt, asmReg rs, toString imm.toNat]
  | .lui rt imm => asmLine "lui" [asmReg rt, toString imm.toNat]
  | .lw rt rs imm => asmLine "lw" [asmReg rt, asmAddress rs imm]
  | .sw rt rs imm => asmLine "sw" [asmReg rt, asmAddress rs imm]
  | .trapNl => asmLine "trap.nl" []
  | .trapPrint rs => asmLine "trap.print" [asmReg rs]
  | .trapRead rt => asmLine "trap.read" [asmReg rt]
  | .trapHalt => asmLine "trap.halt" []

end Sys2Proof.Machine
end

