-- ==== Sys2Proof/Machine/Report.lean ====
section
/-! DEFINITION. What the outside reads: the totals and the report (`10_state.md` R24), the diagnostic of a fatal
condition (`60_exceptions.md` R130, R132) and the exit status (R133). Derived from State; nothing here is state. -/

namespace Sys2Proof.Machine

/-- `total_cycles = instructions + 7 + bubbles + flushes` (R24). -/
def State.totalCycles (s : State) : Nat :=
  s.instructions + pipelineFill + s.bubbles + s.flushes

/-- The number of modelled cycles, one per `Advance` (R73). -/
def State.advances (s : State) : Nat := s.instructions + s.bubbles + s.flushes

/-- The five values of the reporting layer (R24). -/
structure RunReport where
  instructions : Nat
  bubbles : Nat
  flushes : Nat
  totalCycles : Nat
  pc : Word
  deriving DecidableEq, Repr

/-- The report, readable in every state (R24). -/
def State.report (s : State) : RunReport :=
  { instructions := s.instructions
    bubbles := s.bubbles
    flushes := s.flushes
    totalCycles := s.totalCycles
    pc := s.pc }

/-- The code of a fatal condition (R130; D26). -/
def Fatal.code : Fatal → Nat
  | .fetchRange _ => 1
  | .dataAccess _ _ _ => 2
  | .arithmetic _ => 3
  | .unsupported _ _ => 4

/-- The `pc` a fatal condition records (R130). -/
def Fatal.pc : Fatal → Word
  | .fetchRange pc => pc
  | .dataAccess pc _ _ => pc
  | .arithmetic pc => pc
  | .unsupported pc _ => pc

/-- The fatal condition a run ended in, "available in `status`" (R132). -/
def Status.fatal : Status → Option Fatal
  | .running => none
  | .halted => none
  | .faulted f => some f

/-- The exit status (R133): none while running, 0 on a normal halt, the code of a fatal condition. -/
def Status.exitStatus : Status → Option Nat
  | .running => none
  | .halted => some 0
  | .faulted f => some f.code

end Sys2Proof.Machine
end

