-- ==== Sys2Proof/WellFormed.lean ====
section
/-! DEFINITION. Well-formedness: the constraints R6 and R7 of `00_scope.md` put on the parameters of a run.
An instruction needs no check of its own: every operand's type is exactly as wide as its field (R46), so a term
of `Instr` with a register 32, a shift distance 32, an immediate of 17 bits or a jump field of 27 bits cannot be
written. -/

namespace Sys2Proof

/-- The primary opcodes of R50 that are not the trap's: the register-format opcode 0 and the nine others. -/
def primaryOpcodes : List (BitVec 6) :=
  [0x00, 0x02, 0x03, 0x04, 0x05, 0x09, 0x0C, 0x0F, 0x23, 0x2B]

/-- R7: "The four codes must be pairwise distinct 4-bit values". -/
abbrev TrapEncoding.codesDistinct (te : TrapEncoding) : Prop :=
  [te.newline, te.printInt, te.readInt, te.halt].Nodup

/-- R7: "`TRAP_OPCODE` must differ from every other primary opcode". -/
abbrev TrapEncoding.opcodeFree (te : TrapEncoding) : Prop :=
  te.opcode ∉ primaryOpcodes

/-- The constraints of R7 together. -/
abbrev TrapEncoding.wf (te : TrapEncoding) : Prop :=
  te.codesDistinct ∧ te.opcodeFree

/-- R6's constraint on data memory: base and size multiples of 4, size positive, end at most `2^32`. -/
abbrev Params.dmemFits (p : Params) : Prop :=
  p.dmemBase % 4 = 0 ∧ p.dmemSize % 4 = 0 ∧ 0 < p.dmemSize ∧ p.dmemBase + p.dmemSize ≤ 2 ^ 32

/-- R6's constraint on the image: base a multiple of 4, end at most `2^32`. -/
abbrev Params.imemFits (p : Params) : Prop :=
  p.imemBase % 4 = 0 ∧ p.imemBase + 4 * p.imemWords ≤ 2 ^ 32

/-- A memory lists only words of `DMEM[0 .. DMEM_SIZE/4 - 1]` (`10_state.md` R16, `20_memory.md` R30). -/
abbrev Params.holds (p : Params) (m : Machine.Memory) : Prop :=
  ∀ c ∈ m, c.1 < p.dmemSize / 4

/-- The constraints of R6 and R7, and `DMEM_INIT` a canonical memory of the data region. -/
abbrev Params.wf (p : Params) : Prop :=
  p.dmemFits ∧ p.imemFits ∧ p.dmemInit.wf ∧ p.holds p.dmemInit ∧ p.trap.wf

end Sys2Proof
end

