-- ==== Sys2Proof/Safety.lean ====
section
/-! DEFINITION. The terms claims are made in: the invariant of the machine, the reachable states, what "unchanged" means for
each kind of state, the cost of an instruction (`70_reset_and_hazards.md` R155), and the states that differ only in what
the cost model holds (R159). -/

namespace Sys2Proof.Machine

/-! ### Invariants -/

/-- The tracker's bound: `cyc[i] <= max(0, 7 - i)` (`10_state.md` R19(c)), and one less for an entry that is not `ACC`,
since only MULT and DIV record a count of 7 (`40_step_and_tracker.md` R66). -/
def Tracker.bounded (t : Tracker) : Prop :=
  ∀ i : Fin 8, t[i].cyc ≤ 7 - i.val ∧ (t[i].dest ≠ some .acc → t[i].cyc ≤ 6 - i.val)

/-- Data memory is in its canonical form and lists only words of the data region (R16, R30). -/
def State.memHeld (s : State) : Prop := s.dmem.wf ∧ s.params.holds s.dmem

/-- A fatal condition recorded is one of the instruction the `pc` stands at (R131). -/
def State.preciseFault (s : State) : Prop := ∀ f, s.status = .faulted f → f.pc = s.pc

/-- The invariant of the machine: the parameters meet R6 and R7, the cell behind the hard-wired register 0 holds zero
(R11), the tracker keeps its bound (R19), data memory its form, and a recorded fault is precise (R131). -/
structure State.Inv (s : State) : Prop where
  params : s.params.wf
  zero : s.regs[0] = 0
  tracker : s.tracker.bounded
  memory : s.memHeld
  fault : s.preciseFault

/-- The states of a run with these parameters: its start (R150), a step, and the console having more answers ready
(`46_trap.md` R120). Nothing else reaches the core (`60_exceptions.md` R135). -/
inductive Reachable (p : Params) : State → Prop where
  | start : Reachable p (State.start p)
  | step {s t : State} : Reachable p s → step s = .next t → Reachable p t
  | input {s : State} (vs : List Word) : Reachable p s → Reachable p (s.supplyInput vs)

/-- A state of a safe run: no fatal condition has ended it (R130). -/
def State.safe (s : State) : Prop := s.status.fatal = none

/-! ### What "unchanged" means -/

/-- Every word of data memory reads as before: all there is of it (`20_memory.md` R36). -/
def State.sameMem (s t : State) : Prop := ∀ k : Nat, t.dmemWord k = s.dmemWord k

/-- Every word of data memory but word `k` reads as before. -/
def State.sameMemOutside (s t : State) (k : Nat) : Prop := ∀ j : Nat, j ≠ k → t.dmemWord j = s.dmemWord j

/-- Every general register reads as before. -/
def State.sameRegs (s t : State) : Prop := ∀ r : Reg, t.reg r = s.reg r

/-- Register `d` reads as `v`, or as zero if it is register 0, whose writes are discarded (R11); every other general
register reads as before. -/
def State.wroteReg (s t : State) (d : Reg) (v : Word) : Prop :=
  t.reg d = (if d = 0 then 0 else v) ∧ ∀ r : Reg, r ≠ d → t.reg r = s.reg r

/-- Both accumulators read as before. -/
def State.sameAcc (s t : State) : Prop := t.hi = s.hi ∧ t.lo = s.lo

/-- The console's trace and its answers are as before. -/
def State.sameConsole (s t : State) : Prop := t.consoleOut = s.consoleOut ∧ t.consoleIn = s.consoleIn

/-- The read-only inputs of the run (R27) and the run status are as before. -/
def State.sameRun (s t : State) : Prop := t.params = s.params ∧ t.status = s.status

/-- Nothing but general registers, the pc and the cost model changed: accumulators, data memory, console, run. -/
def State.restSame (s t : State) : Prop := s.sameAcc t ∧ s.sameMem t ∧ s.sameConsole t ∧ s.sameRun t

/-- A valid data address (`20_memory.md` R31): aligned, and inside the data region. -/
def State.validAddress (s : State) (ea : Word) : Prop :=
  ea.toNat % 4 = 0 ∧ s.params.dmemBase ≤ ea.toNat ∧ ea.toNat < s.params.dmemBase + s.params.dmemSize

/-- An address no fetch finds a word at (R39): not a multiple of 4, or outside the image. -/
def State.outsideImage (s : State) (a : Word) : Prop :=
  a.toNat % 4 ≠ 0 ∨ a.toNat < s.params.imemBase ∨ s.params.imemBase + 4 * s.params.imemWords ≤ a.toNat

/-- The state with a fatal condition raised and nothing else changed (R131). -/
def State.withFatal (s : State) (f : Fatal) : State := { s with status := .faulted f }

/-! ### What an instruction costs -/

/-- The tracker after the `Stall`s of some operands in order (R68, R71). -/
def Tracker.afterStalls : Tracker → List (TrackIdx × Nat) → Tracker
  | t, [] => t
  | t, (r, n) :: rest => (t.stalled r n).afterStalls rest

/-- The bubbles of the `Stall`s of some operands in order (R68, R71). -/
def Tracker.stallSum : Tracker → List (TrackIdx × Nat) → Nat
  | _, [] => 0
  | t, (r, n) :: rest => t.check r n + (t.stalled r n).stallSum rest

/-- From `s` to `t` one instruction retired: it stalled for `needs`, recorded `(d, a)`, and flushed if `taken`
(R68, R69, R70). -/
def State.cost (s t : State) (needs : List (TrackIdx × Nat)) (d : Option TrackIdx) (a : Nat) (taken : Bool) : Prop :=
  t.instructions = s.instructions + 1 ∧
  t.bubbles = s.bubbles + s.tracker.stallSum needs ∧
  t.flushes = s.flushes + (if taken then 2 else 0) ∧
  t.tracker =
    (if taken then ((((s.tracker.afterStalls needs).advance d a).advance none 0).advance none 0)
     else (s.tracker.afterStalls needs).advance d a)

end Sys2Proof.Machine

namespace Sys2Proof

open Machine

/-- R155's column "operands checked (`n`)", in the order checked. -/
def Instr.needs : Instr → List (TrackIdx × Nat)
  | .sll _ rt _ | .srl _ rt _ | .sra _ rt _ => [(.gpr rt, 3)]
  | .addu _ rs rt | .subu _ rs rt | .slt _ rs rt => [(.gpr rs, 3), (.gpr rt, 3)]
  | .mult rs rt | .div rs rt => [(.gpr rs, 3), (.gpr rt, 3)]
  | .mfhi _ | .mflo _ => [(.acc, 3)]
  | .jr rs => [(.gpr rs, 3)]
  | .j _ | .jal _ => []
  | .beq rs rt _ | .bne rs rt _ => [(.gpr rs, 3), (.gpr rt, 3)]
  | .addiu _ rs _ | .andi _ rs _ => [(.gpr rs, 3)]
  | .lui _ _ => []
  | .lw _ rs _ => [(.gpr rs, 3)]
  | .sw rt rs _ => [(.gpr rs, 3), (.gpr rt, 4)]
  | .trapPrint rs => [(.gpr rs, 3)]
  | .trapNl | .trapHalt | .trapRead _ => []

/-- R13's column "general registers read". -/
def Instr.reads : Instr → List Reg
  | .sll _ rt _ | .srl _ rt _ | .sra _ rt _ => [rt]
  | .addu _ rs rt | .subu _ rs rt | .slt _ rs rt => [rs, rt]
  | .mult rs rt | .div rs rt => [rs, rt]
  | .mfhi _ | .mflo _ => []
  | .jr rs => [rs]
  | .j _ | .jal _ => []
  | .beq rs rt _ | .bne rs rt _ => [rs, rt]
  | .addiu _ rs _ | .andi _ rs _ => [rs]
  | .lui _ _ => []
  | .lw _ rs _ => [rs]
  | .sw rt rs _ => [rs, rt]
  | .trapPrint rs => [rs]
  | .trapNl | .trapHalt | .trapRead _ => []

/-- R155's column "`Retire(d, a)`": the destination recorded. -/
def Instr.dest : Instr → Option TrackIdx
  | .sll rd _ _ | .srl rd _ _ | .sra rd _ _ => some (.gpr rd)
  | .addu rd _ _ | .subu rd _ _ | .slt rd _ _ => some (.gpr rd)
  | .mult _ _ | .div _ _ => some .acc
  | .mfhi rd | .mflo rd => some (.gpr rd)
  | .jr _ | .j _ => none
  | .jal _ => some (.gpr 31)
  | .beq _ _ _ | .bne _ _ _ => none
  | .addiu rt _ _ | .andi rt _ _ | .lui rt _ | .lw rt _ _ => some (.gpr rt)
  | .sw _ _ _ => none
  | .trapRead rt => some (.gpr rt)
  | .trapPrint _ | .trapNl | .trapHalt => none

/-- R155's column "`Retire(d, a)`": the available stage recorded. -/
def Instr.availableAt : Instr → Nat
  | .sll _ _ _ | .srl _ _ _ | .sra _ _ _ | .addu _ _ _ | .subu _ _ _ | .slt _ _ _ => 4
  | .mult _ _ | .div _ _ => 7
  | .mfhi _ | .mflo _ | .jal _ => 4
  | .addiu _ _ _ | .andi _ _ _ | .lui _ _ | .trapRead _ => 4
  | .lw _ _ _ => 6
  | .jr _ | .j _ | .beq _ _ _ | .bne _ _ _ | .sw _ _ _ | .trapPrint _ | .trapNl | .trapHalt => 0

/-- R155's column "flush": whether the instruction, run in this state, redirects control flow (R70, R115(c)). -/
def Instr.taken : Instr → State → Bool
  | .jr _, _ | .j _, _ | .jal _, _ => true
  | .beq rs rt _, s => s.reg rs == s.reg rt
  | .bne rs rt _, s => s.reg rs != s.reg rt
  | .sll _ _ _, _ | .srl _ _ _, _ | .sra _ _ _, _ | .addu _ _ _, _ | .subu _ _ _, _ | .slt _ _ _, _ => false
  | .mult _ _, _ | .div _ _, _ | .mfhi _, _ | .mflo _, _ => false
  | .addiu _ _ _, _ | .andi _ _ _, _ | .lui _ _, _ | .lw _ _ _, _ | .sw _ _ _, _ => false
  | .trapNl, _ | .trapPrint _, _ | .trapRead _, _ | .trapHalt, _ => false

namespace Machine

/-- The instruction's own cost, as R155's table has it. -/
def State.costOf (s t : State) (i : Instr) : Prop :=
  s.cost t i.needs i.dest i.availableAt (i.taken s)

/-- The instruction the next step runs, if it fetches and decodes one (R61). -/
def State.nextInstr (s : State) : Option Instr :=
  match s.ifetch with
  | none => none
  | some w => (decode s.params.trap w).toOption

/-- The `pc` at the end of an instruction that retires (R15): the target of a transfer taken, else `pc + 4`. -/
def State.pcAfter (s : State) (i : Instr) : Word :=
  if i.taken s then
    match i with
    | .jr rs => s.reg rs
    | .j target => s.jumpTarget target
    | .jal target => s.jumpTarget target
    | .beq _ _ imm => s.branchTarget imm
    | .bne _ _ imm => s.branchTarget imm
    | .sll _ _ _ | .srl _ _ _ | .sra _ _ _ | .addu _ _ _ | .subu _ _ _ | .slt _ _ _ => s.nextPc
    | .mult _ _ | .div _ _ | .mfhi _ | .mflo _ => s.nextPc
    | .addiu _ _ _ | .andi _ _ _ | .lui _ _ | .lw _ _ _ | .sw _ _ _ => s.nextPc
    | .trapNl | .trapPrint _ | .trapRead _ | .trapHalt => s.nextPc
  else s.nextPc

/-- The next step only waits for the console: a TRAP.READ that has no answer yet (`46_trap.md` R120, R123). -/
def State.waiting (s : State) : Prop :=
  (∃ rt, s.nextInstr = some (.trapRead rt)) ∧ s.consoleIn = []

/-! ### The states that differ only in the cost model -/

/-- The state with the tracker and the counters forgotten: what R25 and R159 say nothing of the cost model reaches. -/
def State.function (s : State) : State :=
  { s with
    tracker := Tracker.empty
    instructions := 0
    bubbles := 0
    flushes := 0 }

end Machine

end Sys2Proof
end

