-- ==== Sys2Proof/Certificates/Slice0/Obligations.lean ====
section
/-! DEFINITION. The statements for the provers. Each docstring names the rule of spec/ it formalises. An instruction's
statement says its encoding, that it completes, its result, its frame and its cost; `te.wf` and `s.params.wf` are the
constraints R6 and R7 put on the parameters, and no statement rests on a reference value unless its docstring says so.
An encoding is its rule's; where R46, R47 and R50 mark those numbers as MIPS32 general knowledge, so does log 10. -/

open Sys2Proof Sys2Proof.Machine

/-! ### Encoding -/

/-- Words of the spec's decoder table (`95_test_vectors.md` T-DEC) under the default trap encoding (R7), one of each
format, decode to the instructions the table names. -/
def Obligations.DecoderTableWordsDecode : Prop :=
  decode TrapEncoding.standard 0x24020005 = .instr (.addiu 2 0 5) ∧
  decode TrapEncoding.standard 0x00432021 = .instr (.addu 4 2 3) ∧
  decode TrapEncoding.standard 0x8F880004 = .instr (.lw 8 28 4) ∧
  decode TrapEncoding.standard 0x0C100008 = .instr (.jal 0x0100008) ∧
  decode TrapEncoding.standard 0x6800000A = .instr .trapHalt ∧
  decode TrapEncoding.standard 0xFFFFFFFF = .unsupported (.opcode 0x3F)

/-- Every instruction, with every operand its encoding admits, is read back from its word (R46, R47, R50). -/
def Obligations.DecodeEncodeRoundTrip : Prop :=
  ∀ (te : TrapEncoding) (i : Instr), te.wf → decode te (encode te i) = .instr i

/-- R49: the encoder writes exactly the bits of a decoded word that its form looks at, and zeros for the ignored
bits. -/
def Obligations.EncodeKeepsExactlyTheUsedBits : Prop :=
  ∀ (te : TrapEncoding) (w : Word) (i : Instr), decode te w = .instr i → encode te i = w &&& i.usedBits te

/-- R49: a word that differs from a decoded one only in ignored bits decodes to the same instruction. -/
def Obligations.IgnoredBitsNeverMatter : Prop :=
  ∀ (te : TrapEncoding) (w w' : Word) (i : Instr), decode te w = .instr i →
    w' &&& i.usedBits te = w &&& i.usedBits te → decode te w' = .instr i

/-- R50: a word decodes to an instruction exactly when it selects that instruction's row of the opcode table. -/
def Obligations.DecodeAgreesWithOpcodeTable : Prop :=
  ∀ (te : TrapEncoding) (w : Word), te.wf →
    (∀ i, decode te w = .instr i → i.row te ∈ opcodeTable te ∧ (i.row te).selects w) ∧
    (∀ r ∈ opcodeTable te, r.selects w → ∃ i, decode te w = .instr i ∧ i.row te = r)

/-- R50: the rows are pairwise disjoint. -/
def Obligations.OpcodeRowsAreDisjoint : Prop :=
  ∀ (te : TrapEncoding) (w : Word) (r r' : Row), te.wf → r ∈ opcodeTable te → r' ∈ opcodeTable te →
    r.selects w → r'.selects w → r = r'

/-- R51: a word that selects no row, fetched by a running core, raises `UnsupportedInstruction` with its pc and the
word, and changes nothing else (R131). -/
def Obligations.UnsupportedWordRaises : Prop :=
  ∀ (s : State) (w : Word), s.params.trap.wf → s.status = .running → s.ifetch = some w →
    (∀ r ∈ opcodeTable s.params.trap, ¬ r.selects w) →
    step s = .next (s.withFatal (.unsupported s.pc w))

/-- R46: each field of a word is the bit slice the table gives, as a number. -/
def Obligations.FieldsAreTheBitSlices : Prop :=
  ∀ w : Word,
    (fields w).op.toNat = w.toNat / 2 ^ 26 ∧
    (fields w).rs.toNat = w.toNat / 2 ^ 21 % 2 ^ 5 ∧
    (fields w).rt.toNat = w.toNat / 2 ^ 16 % 2 ^ 5 ∧
    (fields w).rd.toNat = w.toNat / 2 ^ 11 % 2 ^ 5 ∧
    (fields w).shamt.toNat = w.toNat / 2 ^ 6 % 2 ^ 5 ∧
    (fields w).funct.toNat = w.toNat % 2 ^ 6 ∧
    (fields w).imm16.toNat = w.toNat % 2 ^ 16 ∧
    (fields w).target26.toNat = w.toNat % 2 ^ 26 ∧
    (fields w).code4.toNat = w.toNat % 2 ^ 4 ∧
    w = (fields w).op ++ (fields w).rs ++ (fields w).rt ++ (fields w).rd ++ (fields w).shamt ++ (fields w).funct

/-- R48: the forms a 16-bit field and a 26-bit field are read in, as numbers. -/
def Obligations.ImmediateFormsAsNumbers : Prop :=
  ∀ (imm : BitVec 16) (target : BitVec 26),
    (uimm imm).toNat = imm.toNat ∧
    (simm imm).toInt = imm.toInt ∧
    (branchOffset imm).toInt = 4 * imm.toInt ∧
    (highImm imm).toNat = 2 ^ 16 * imm.toNat ∧
    (joff target).toNat = 4 * target.toNat

/-- R53: the field a label resolves to makes the jump or branch at `s.pc` go to the label: a jump to any multiple of 4
in the region of `pc + 4`, a branch to any multiple of 4 whose displacement from `pc + 4` is in the 18-bit range. -/
def Obligations.LabelFieldsReachTheLabel : Prop :=
  ∀ (s : State) (label : Word),
    (label.toNat % 4 = 0 → label.toNat / 2 ^ 28 = (s.pc + 4).toNat / 2 ^ 28 →
      s.jumpTarget (jumpField label) = label) ∧
    ((label - (s.pc + 4)).toNat % 4 = 0 → -131072 ≤ (label - (s.pc + 4)).toInt →
      (label - (s.pc + 4)).toInt ≤ 131068 → s.branchTarget (branchField s.pc label) = label)

/-! ### The start of a run -/

/-- R26: the value of every piece of state at the start of a run, for every choice of the parameters (R150; the empty
tracker and the zero accumulators are the spec's decisions D23 and D33). The console fields are the model's own (log
7, log 8) and are not mentioned. -/
def Obligations.StartOfRunValues : Prop :=
  ∀ p : Params,
    (State.start p).reg 28 = p.gpInit ∧
    (State.start p).reg 29 = p.spInit ∧
    (∀ r : Reg, r ≠ 28 → r ≠ 29 → (State.start p).reg r = 0) ∧
    (State.start p).hi = 0 ∧ (State.start p).lo = 0 ∧
    (State.start p).pc = p.startPc ∧
    (State.start p).dmem = p.dmemInit ∧
    (∀ i : Fin 8, (State.start p).tracker[i] = ⟨none, 0⟩) ∧
    (State.start p).instructions = 0 ∧ (State.start p).bubbles = 0 ∧ (State.start p).flushes = 0 ∧
    (State.start p).status = .running ∧
    (State.start p).params = p

/-- The invariant of the machine holds at the start of every run whose parameters meet R6 and R7, and at
`State.reset`, which is such a start (its reference values are the model's choice, log 3). -/
def Obligations.StartMeetsInvariant : Prop :=
  (∀ p : Params, p.wf → (State.start p).Inv) ∧ State.reset.Inv

/-- From every state that meets the invariant a step gives a state that meets it: the parameters' constraints, the
zero behind register 0 (R11), the tracker's bound (R19), data memory's form and region (R16), precise faults
(R131). -/
def Obligations.StepKeepsInvariant : Prop :=
  ∀ s t : State, s.Inv → step s = .next t → t.Inv

/-- Every state of every run meets the invariant, whatever the console answers and whenever. -/
def Obligations.ReachableStatesMeetInvariant : Prop :=
  ∀ (p : Params) (s : State), p.wf → Reachable p s → s.Inv

/-! ### The step -/

/-- R61: a running core whose pc stands at word `k` of the image runs the instruction that word decodes to, and a step
adds nothing around it. -/
def Obligations.StepRunsTheDecodedInstruction : Prop :=
  ∀ (s : State) (k : Nat) (w : Word) (i : Instr), s.status = .running → s.params.imemBase % 4 = 0 →
    s.pc.toNat = s.params.imemBase + 4 * k → s.params.imem[k]? = some w → decode s.params.trap w = .instr i →
    step s = exec i s

/-- R39 (a misaligned pc: the spec's decision D19): fetch outside the image, or at a misaligned pc, raises
`FetchRangeError(pc)` and changes nothing else; otherwise it reads the word of the image at the pc. -/
def Obligations.FetchRangeRule : Prop :=
  ∀ s : State, s.status = .running →
    (s.outsideImage s.pc → step s = .next (s.withFatal (.fetchRange s.pc))) ∧
    (¬ s.outsideImage s.pc → ∃ w, s.ifetch = some w ∧
      s.params.imem[(s.pc.toNat - s.params.imemBase) / 4]? = some w)

/-- R60 (log 2: a step of a stopped core answers the same state): in `HALTED` and `FAULTED` the core does nothing for
ever; every step of a running core retires exactly one instruction, or raises exactly one fatal condition, or (a
TRAP.READ with no answer) waits with nothing changed. -/
def Obligations.CoreStepsOnlyWhileRunning : Prop :=
  (∀ (s : State) (n : Nat), s.status ≠ .running → Sys2Proof.core.run n s = .next s) ∧
  ∀ s : State, s.status = .running → ∃ t, step s = .next t ∧
    ((t.instructions = s.instructions + 1 ∧ t.status.fatal = none ∧ ¬ s.waiting) ∨
     (∃ f, t = s.withFatal f ∧ ¬ s.waiting) ∨
     (t = s ∧ s.waiting))

/-- R72, R131 (the spec's decision D25): a step that raises a fatal condition commits nothing: the status is the only
thing that changes, and the condition records the pc of the failing instruction. -/
def Obligations.FatalStepChangesOnlyStatus : Prop :=
  ∀ (s t : State) (f : Fatal), s.status = .running → step s = .next t → t.status = .faulted f →
    t = s.withFatal f ∧ f.pc = s.pc

/-- R134: once an instruction is selected, only DIV can raise `ArithmeticError` and only LW and SW `DataAccessError`,
each on its own condition. -/
def Obligations.OnlyDivLoadStoreRaise : Prop :=
  ∀ (i : Instr) (s t : State) (f : Fatal), s.status = .running → exec i s = .next t → t.status = .faulted f →
    (∃ rs rt, i = .div rs rt ∧ s.reg rt = 0 ∧ f = .arithmetic s.pc) ∨
    (∃ rt rs imm reason, (i = .lw rt rs imm ∨ i = .sw rt rs imm) ∧
      ¬ s.validAddress (s.effectiveAddress rs imm) ∧
      f = .dataAccess s.pc (s.effectiveAddress rs imm) reason)

/-- R21: `HALTED` is entered by TRAP.HALT and by nothing else, `FAULTED` by a fatal condition of the step, and neither
is ever left: a step of a stopped core answers the same state (log 2). -/
def Obligations.RunStatusRule : Prop :=
  ∀ s t : State, step s = .next t →
    (s.status ≠ .running → t = s) ∧
    (s.status = .running →
      (t.status = .halted ↔ s.nextInstr = some .trapHalt) ∧
      ((∃ f, t.status = .faulted f) ↔ ∃ f, step s = .next (s.withFatal f)))

/-- R136, with R130's conditions (nothing else changes: the spec's decision D25): which fatal condition a step raises,
and when: fetch first, then dispatch, then the instruction's own; within a data access error `unaligned` first. -/
def Obligations.FatalConditionsRaisedExactlyWhen : Prop :=
  ∀ (s : State) (f : Fatal), s.params.trap.wf → s.status = .running →
    (step s = .next (s.withFatal f) ↔
      (s.outsideImage s.pc ∧ f = .fetchRange s.pc) ∨
      (∃ w, s.ifetch = some w ∧ (∀ r ∈ opcodeTable s.params.trap, ¬ r.selects w) ∧ f = .unsupported s.pc w) ∨
      (∃ rs rt, s.nextInstr = some (.div rs rt) ∧ s.reg rt = 0 ∧ f = .arithmetic s.pc) ∨
      (∃ rt rs imm, (s.nextInstr = some (.lw rt rs imm) ∨ s.nextInstr = some (.sw rt rs imm)) ∧
        ¬ s.validAddress (s.effectiveAddress rs imm) ∧
        f = .dataAccess s.pc (s.effectiveAddress rs imm)
          (if (s.effectiveAddress rs imm).toNat % 4 ≠ 0 then .unaligned else .outOfBounds)))

/-- R27, R41: no step changes the parameters or the instruction image, so no store makes a later fetch at the same pc
return another word. -/
def Obligations.InputsAndImageNeverChange : Prop :=
  ∀ s t : State, step s = .next t →
    t.params = s.params ∧ ∀ pc : Word, (t.setPc pc).ifetch = (s.setPc pc).ifetch

/-- R15 (the spec's decisions D7, D25, D34): at the end of a step that retires an instruction the pc is the target of
a transfer taken, else `pc + 4`; a step that raises a fatal condition, or waits, leaves it. -/
def Obligations.ProgramCounterRule : Prop :=
  ∀ s t : State, s.status = .running → step s = .next t →
    (∃ i, s.nextInstr = some i ∧ t.instructions = s.instructions + 1 ∧ t.pc = s.pcAfter i) ∨
    (t.instructions = s.instructions ∧ t.pc = s.pc)

/-- R13, R11: an instruction changes no general register but the one its row of the table writes, and none at all
where that is register 0. -/
def Obligations.OnlyTheDestinationRegisterChanges : Prop :=
  ∀ (i : Instr) (s t : State), exec i s = .next t →
    (∀ r : Reg, i.dest ≠ some (.gpr r) → t.reg r = s.reg r) ∧ (i.dest = some (.gpr 0) → s.sameRegs t)

/-- R13: an instruction reads no general register but those its row of the table reads: with any other register preset
otherwise, it does the same, and leaves the same in its own destination. -/
def Obligations.OnlyTheNamedRegistersAreRead : Prop :=
  ∀ (i : Instr) (s t : State) (r : Reg) (v : Word), r ∉ i.reads → exec i s = .next t →
    ∃ t', exec i (s.writeReg r v) = .next t' ∧ t' = { t with regs := t'.regs } ∧
      (∀ q : Reg, q ≠ r → t'.reg q = t.reg q) ∧
      (i.dest = some (.gpr r) → t.instructions = s.instructions + 1 → t'.reg r = t.reg r)

/-- R14: the accumulators are written only by MULT and DIV, and read only by MFHI and MFLO: with other values in them
any other instruction does the same; MULT, and a DIV that retires, leave the same new values, and whatever else runs
leaves the other values as they stand. -/
def Obligations.AccumulatorsOnlyByTheirFourInstructions : Prop :=
  ∀ (i : Instr) (s t : State), exec i s = .next t →
    ((t.hi ≠ s.hi ∨ t.lo ≠ s.lo) → ∃ rs rt, i = .mult rs rt ∨ i = .div rs rt) ∧
    ((∀ rd, i ≠ .mfhi rd ∧ i ≠ .mflo rd) → ∀ h l : Word,
      ∃ t', exec i (s.writeAcc h l) = .next t' ∧ t' = { t with hi := t'.hi, lo := t'.lo } ∧
        (∀ rs rt, i = .mult rs rt ∨ (i = .div rs rt ∧ t.instructions = s.instructions + 1) → t.sameAcc t') ∧
        ((∀ rs rt, i ≠ .mult rs rt ∧ i ≠ .div rs rt) ∨ t.instructions = s.instructions → t'.hi = h ∧ t'.lo = l))

/-- R16: data memory is written only by SW, and then only the word at its effective address. -/
def Obligations.DataMemoryOnlyByStore : Prop :=
  ∀ s t : State, s.dmem.wf → step s = .next t → ¬ s.sameMem t →
    ∃ rt rs imm, s.nextInstr = some (.sw rt rs imm) ∧ s.validAddress (s.effectiveAddress rs imm) ∧
      s.sameMemOutside t (s.wordIndex (s.effectiveAddress rs imm))

/-- R120: the console trace only grows, by at most one token a step and only by the print traps; an answer is taken
only by TRAP.READ, one a step, in order. The trace and the answers as fields of the state are the model's (log 7, log
8). -/
def Obligations.ConsoleTransactionsInOrder : Prop :=
  ∀ s t : State, step s = .next t →
    (∃ out, t.consoleOut = s.consoleOut ++ out ∧ out.length ≤ 1 ∧
      (out ≠ [] → s.nextInstr = some .trapNl ∨ ∃ rs, s.nextInstr = some (.trapPrint rs))) ∧
    (∃ used, s.consoleIn = used ++ t.consoleIn ∧ used.length ≤ 1 ∧
      (used ≠ [] → ∃ rt, s.nextInstr = some (.trapRead rt)))

/-- The word the loader places where a step fetches is the word fetched and run, the core runs, and nothing but the
image, the status and (only where no word of the image stood at the pc) the pc changes: inside the image that one word
of it, else the image becomes that one word at the pc made a multiple of 4. The model's own loading operation (log 4). -/
def Obligations.PlacedWordIsTheWordRun : Prop :=
  ∀ (s t : State) (nbits w : Nat) (v : Word) (i : Instr), t = s.withFetchWord nbits w →
    v = BitVec.ofNat 32 (w % 2 ^ nbits) → decode s.params.trap v = .instr i →
    t.ifetch = some v ∧ step t = exec i t ∧ t.status = .running ∧
    t.regs = s.regs ∧ s.sameAcc t ∧ t.dmem = s.dmem ∧ t.tracker = s.tracker ∧
    t.instructions = s.instructions ∧ t.bubbles = s.bubbles ∧ t.flushes = s.flushes ∧ s.sameConsole t ∧
    (¬ s.outsideImage s.pc → t.pc = s.pc ∧
      t.params = { s.params with imem := s.params.imem.set ((s.pc.toNat - s.params.imemBase) / 4) v }) ∧
    (s.outsideImage s.pc → t.pc.toNat = s.pc.toNat / 4 * 4 ∧
      t.params = { s.params with imemBase := t.pc.toNat, imem := [v] })

/-! ### The Hazard Tracker and the counters -/

/-- R155 (with the spec's decisions D10, D11, D14): an instruction that retires costs what the table says (operands
checked, entry recorded, flush); otherwise it raised a fatal condition and left no trace, or waited for the
console. -/
def Obligations.CostTable : Prop :=
  ∀ (i : Instr) (s t : State), exec i s = .next t →
    s.costOf t i ∨ (∃ f, t = s.withFatal f) ∨ (t = s ∧ (∃ rt, i = .trapRead rt) ∧ s.consoleIn = [])

/-- R62: `Advance` puts the new entry in slot 0, moves every other entry one slot older with its count decremented and
floored at zero, and discards slot 7: after 8 or more calls nothing of the older tracker is left. -/
def Obligations.AdvanceShiftsAgesAndForgets : Prop :=
  ∀ (t u : Tracker),
    (∀ (d : Option TrackIdx) (a : Nat), (t.advance d a)[0] = ⟨d, a⟩ ∧
      ∀ i : Fin 7, (t.advance d a)[i.val + 1].dest = t[i.val].dest ∧
        ((t.advance d a)[i.val + 1].cyc : Int) = max 0 ((t[i.val].cyc : Int) - 1)) ∧
    ∀ entries : List Slot, 8 ≤ entries.length →
      entries.foldl (fun x e => x.advance e.dest e.cyc) t = entries.foldl (fun x e => x.advance e.dest e.cyc) u

/-- R63: the youngest slot that holds the index decides, even when it gives 0 and an older one has a larger deficit;
an index that no slot holds gives 0. So an entry of any other index, or a bubble, never hides or makes a deficit. -/
def Obligations.YoungestWriterDecides : Prop :=
  ∀ (t : Tracker) (r : TrackIdx) (n : Nat),
    (∀ i : Fin 8, t[i].dest = some r → (∀ j : Fin 8, j < i → t[j].dest ≠ some r) →
      (t.check r n : Int) = max 0 ((t[i].cyc : Int) - n)) ∧
    ((∀ i : Fin 8, t[i].dest ≠ some r) →
      t.check r n = 0 ∧ ∀ (q : Option TrackIdx) (a : Nat), q ≠ some r → (t.advance q a).check r n = 0) ∧
    ∀ a : Nat, (t.advance (some r) a).check r n = a - n

/-- R68: after `Stall(r, n)` returns, `CheckDependency(r, n)` is 0, in every tracker that keeps R19's bound. -/
def Obligations.StallLeavesNoDeficit : Prop :=
  ∀ (t : Tracker) (r : TrackIdx) (n : Nat), t.bounded → (t.stalled r n).check r n = 0

/-- R71 (the spec's decision D13): two `Stall`s in a row insert the larger of the two deficits the un-stalled tracker
shows, in either order. -/
def Obligations.TwoStallsCostTheLarger : Prop :=
  ∀ (t : Tracker) (r q : TrackIdx) (n m : Nat), t.bounded →
    t.check r n + (t.stalled r n).check q m = max (t.check r n) (t.check q m)

/-- R75: the stall distance law: after `k` further `Advance` calls, none recording `d` again, a consumer of `d` needed
at `n` inserts `max(0, a - k - n)` bubbles if `k <= 7`, and none if `k >= 8`. -/
def Obligations.StallDistanceLaw : Prop :=
  ∀ (t : Tracker) (d : TrackIdx) (a n : Nat) (later : List Slot), (∀ e ∈ later, e.dest ≠ some d) →
    (later.foldl (fun u e => u.advance e.dest e.cyc) (t.advance (some d) a)).check d n =
      if later.length ≤ 7 then a - later.length - n else 0

/-- R73: one `Advance` is one modelled cycle: a step calls `Advance` exactly as often as `instructions + bubbles +
flushes` grows, and the total is that sum plus 7. -/
def Obligations.OneAdvancePerCycle : Prop :=
  ∀ s t : State, step s = .next t →
    (∃ entries : List Slot, t.tracker = entries.foldl (fun u e => u.advance e.dest e.cyc) s.tracker ∧
      t.instructions + t.bubbles + t.flushes = s.instructions + s.bubbles + s.flushes + entries.length) ∧
    t.totalCycles = t.instructions + 7 + t.bubbles + t.flushes

/-- R160: an instruction that retires adds exactly 1 to `instructions`, at most 4 to `bubbles` and at most 3 unless it
is MFHI or MFLO, and 0 or 2 to `flushes`; one that does not retire adds nothing. -/
def Obligations.CostBounds : Prop :=
  ∀ (i : Instr) (s t : State), s.tracker.bounded → exec i s = .next t →
    (t.instructions = s.instructions + 1 ∧
      (t.flushes = s.flushes ∨ t.flushes = s.flushes + 2) ∧
      s.bubbles ≤ t.bubbles ∧ t.bubbles ≤ s.bubbles + 4 ∧
      ((∀ rd, i ≠ .mfhi rd ∧ i ≠ .mflo rd) → t.bubbles ≤ s.bubbles + 3)) ∨
    (t.instructions = s.instructions ∧ t.flushes = s.flushes ∧ t.bubbles = s.bubbles)

/-- R25, R159: the tracker and the counters never change what the core computes: two states that agree in everything
else step to states that agree in everything else. -/
def Obligations.TimingNeverAffectsFunction : Prop :=
  ∀ s s' t : State, s.function = s'.function → step s = .next t →
    ∃ t', step s' = .next t' ∧ t'.function = t.function

/-- R20 (log 2: a step of a core that is not running answers the same state): the counters never decrease, and a core
that is not running changes nothing. -/
def Obligations.CountersNeverDecrease : Prop :=
  ∀ s t : State, step s = .next t →
    s.instructions ≤ t.instructions ∧ s.bubbles ≤ t.bubbles ∧ s.flushes ≤ t.flushes ∧
    s.totalCycles ≤ t.totalCycles ∧ (s.status ≠ .running → t = s)

/-- R133 (zero or non-zero only, as the rule asks): the exit status is 0 on a normal halt, non-zero on any fatal
condition, and none while running. -/
def Obligations.ExitStatusRule : Prop :=
  ∀ s : State,
    (s.status = .halted ↔ s.status.exitStatus = some 0) ∧
    ((∃ f, s.status = .faulted f) ↔ ∃ n, s.status.exitStatus = some n ∧ n ≠ 0) ∧
    (s.status = .running ↔ s.status.exitStatus = none)

/-! ### The instructions: encoding, completion, result, frame, cost -/

/-- R80, R81, R82: the shifts. SLL is the product with a power of two modulo `2^32`, SRL the unsigned quotient, SRA
the floor of the signed quotient. `x[rs]` and bits 25:21 play no part. -/
def Obligations.ShiftsComputeAndFrame : Prop :=
  ∀ (rd rt : Reg) (sh : Shamt) (s : State),
    (∀ (te : TrapEncoding) (rs : BitVec 5),
      decode te (0x00#6 ++ rs ++ fieldOf rt ++ fieldOf rd ++ fieldOf sh ++ 0x00#6) = .instr (.sll rd rt sh) ∧
      decode te (0x00#6 ++ rs ++ fieldOf rt ++ fieldOf rd ++ fieldOf sh ++ 0x02#6) = .instr (.srl rd rt sh) ∧
      decode te (0x00#6 ++ rs ++ fieldOf rt ++ fieldOf rd ++ fieldOf sh ++ 0x03#6) = .instr (.sra rd rt sh)) ∧
    (∃ t, exec (.sll rd rt sh) s = .next t ∧
      s.wroteReg t rd (BitVec.ofNat 32 ((s.reg rt).toNat * 2 ^ sh.val)) ∧ s.restSame t ∧ t.pc = s.pc + 4 ∧
      s.cost t [(.gpr rt, 3)] (some (.gpr rd)) 4 false) ∧
    (∃ t, exec (.srl rd rt sh) s = .next t ∧
      s.wroteReg t rd (BitVec.ofNat 32 ((s.reg rt).toNat / 2 ^ sh.val)) ∧ s.restSame t ∧ t.pc = s.pc + 4 ∧
      s.cost t [(.gpr rt, 3)] (some (.gpr rd)) 4 false) ∧
    (∃ t, exec (.sra rd rt sh) s = .next t ∧
      s.wroteReg t rd (BitVec.ofInt 32 ((s.reg rt).toInt.fdiv (2 ^ sh.val))) ∧ s.restSame t ∧ t.pc = s.pc + 4 ∧
      s.cost t [(.gpr rt, 3)] (some (.gpr rd)) 4 false)

/-- R83, R84: ADDU and SUBU, modulo `2^32`, with no overflow condition. Bits 10:6 are ignored. -/
def Obligations.AdduSubuComputeAndFrame : Prop :=
  ∀ (rd rs rt : Reg) (s : State),
    (∀ (te : TrapEncoding) (sh : BitVec 5),
      decode te (0x00#6 ++ fieldOf rs ++ fieldOf rt ++ fieldOf rd ++ sh ++ 0x21#6) = .instr (.addu rd rs rt) ∧
      decode te (0x00#6 ++ fieldOf rs ++ fieldOf rt ++ fieldOf rd ++ sh ++ 0x23#6) = .instr (.subu rd rs rt)) ∧
    (∃ t, exec (.addu rd rs rt) s = .next t ∧
      s.wroteReg t rd (BitVec.ofNat 32 ((s.reg rs).toNat + (s.reg rt).toNat)) ∧ s.restSame t ∧ t.pc = s.pc + 4 ∧
      s.cost t [(.gpr rs, 3), (.gpr rt, 3)] (some (.gpr rd)) 4 false) ∧
    (∃ t, exec (.subu rd rs rt) s = .next t ∧
      s.wroteReg t rd (BitVec.ofInt 32 ((s.reg rs).toNat - (s.reg rt).toNat)) ∧ s.restSame t ∧ t.pc = s.pc + 4 ∧
      s.cost t [(.gpr rs, 3), (.gpr rt, 3)] (some (.gpr rd)) 4 false)

/-- R85: SLT compares the mathematical two's-complement values. -/
def Obligations.SltComputesAndFrame : Prop :=
  ∀ (rd rs rt : Reg) (s : State),
    (∀ (te : TrapEncoding) (sh : BitVec 5),
      decode te (0x00#6 ++ fieldOf rs ++ fieldOf rt ++ fieldOf rd ++ sh ++ 0x2A#6) = .instr (.slt rd rs rt)) ∧
    ∃ t, exec (.slt rd rs rt) s = .next t ∧
      ((s.reg rs).toInt < (s.reg rt).toInt → s.wroteReg t rd 1) ∧
      (¬ (s.reg rs).toInt < (s.reg rt).toInt → s.wroteReg t rd 0) ∧
      s.restSame t ∧ t.pc = s.pc + 4 ∧
      s.cost t [(.gpr rs, 3), (.gpr rt, 3)] (some (.gpr rd)) 4 false

/-- R90 (signed: the spec's decision D3): MULT leaves the 64-bit pattern of the signed product in `HI` and `LO`, and
writes no general register. Bits 15:6 are ignored. -/
def Obligations.MultSplitsTheProduct : Prop :=
  ∀ (rs rt : Reg) (s : State),
    (∀ (te : TrapEncoding) (ignored : BitVec 10),
      decode te (0x00#6 ++ fieldOf rs ++ fieldOf rt ++ ignored ++ 0x18#6) = .instr (.mult rs rt)) ∧
    ∃ t, exec (.mult rs rt) s = .next t ∧
      (t.hi ++ t.lo).toInt = (s.reg rs).toInt * (s.reg rt).toInt ∧
      s.sameRegs t ∧ s.sameMem t ∧ s.sameConsole t ∧ s.sameRun t ∧ t.pc = s.pc + 4 ∧
      s.cost t [(.gpr rs, 3), (.gpr rt, 3)] (some .acc) 7 false

/-- R91 (signed, toward zero: the spec's decision D4): DIV raises `ArithmeticError` exactly on a zero divisor and then
changes nothing else; otherwise it leaves in `LO` and `HI` the quotient rounded toward zero and the remainder, modulo
`2^32` (of `-2^31 / -1` too, D5). -/
def Obligations.DivQuotientAndRemainder : Prop :=
  ∀ (rs rt : Reg) (s : State),
    (∀ (te : TrapEncoding) (ignored : BitVec 10),
      decode te (0x00#6 ++ fieldOf rs ++ fieldOf rt ++ ignored ++ 0x1A#6) = .instr (.div rs rt)) ∧
    (s.reg rt = 0 → exec (.div rs rt) s = .next (s.withFatal (.arithmetic s.pc))) ∧
    (s.reg rt ≠ 0 → ∃ t, exec (.div rs rt) s = .next t ∧
      (∃ q r : Int, (s.reg rs).toInt = q * (s.reg rt).toInt + r ∧ |r| < |(s.reg rt).toInt| ∧
        0 ≤ r * (s.reg rs).toInt ∧ t.lo = BitVec.ofInt 32 q ∧ t.hi = BitVec.ofInt 32 r) ∧
      s.sameRegs t ∧ s.sameMem t ∧ s.sameConsole t ∧ s.sameRun t ∧ t.pc = s.pc + 4 ∧
      s.cost t [(.gpr rs, 3), (.gpr rt, 3)] (some .acc) 7 false)

/-- R92, R93: MFHI and MFLO move an accumulator to a general register and leave both accumulators. Bits 25:16 and 10:6
are ignored. -/
def Obligations.AccumulatorMovesComputeAndFrame : Prop :=
  ∀ (rd : Reg) (s : State),
    (∀ (te : TrapEncoding) (ignored : BitVec 10) (sh : BitVec 5),
      decode te (0x00#6 ++ ignored ++ fieldOf rd ++ sh ++ 0x10#6) = .instr (.mfhi rd) ∧
      decode te (0x00#6 ++ ignored ++ fieldOf rd ++ sh ++ 0x12#6) = .instr (.mflo rd)) ∧
    (∃ t, exec (.mfhi rd) s = .next t ∧ s.wroteReg t rd s.hi ∧ s.restSame t ∧ t.pc = s.pc + 4 ∧
      s.cost t [(.acc, 3)] (some (.gpr rd)) 4 false) ∧
    (∃ t, exec (.mflo rd) s = .next t ∧ s.wroteReg t rd s.lo ∧ s.restSame t ∧ t.pc = s.pc + 4 ∧
      s.cost t [(.acc, 3)] (some (.gpr rd)) 4 false)

/-- R100, R101: ADDIU adds the sign-extended immediate modulo `2^32`; ANDI keeps the bits of the zero-extended one, so
bits 31:16 of its result are 0. -/
def Obligations.AddiuAndiComputeAndFrame : Prop :=
  ∀ (rt rs : Reg) (imm : BitVec 16) (s : State),
    (∀ te : TrapEncoding, te.wf →
      decode te (0x09#6 ++ fieldOf rs ++ fieldOf rt ++ imm) = .instr (.addiu rt rs imm) ∧
      decode te (0x0C#6 ++ fieldOf rs ++ fieldOf rt ++ imm) = .instr (.andi rt rs imm)) ∧
    (∃ t, exec (.addiu rt rs imm) s = .next t ∧
      s.wroteReg t rt (BitVec.ofInt 32 ((s.reg rs).toNat + imm.toInt)) ∧ s.restSame t ∧ t.pc = s.pc + 4 ∧
      s.cost t [(.gpr rs, 3)] (some (.gpr rt)) 4 false) ∧
    (∃ t, exec (.andi rt rs imm) s = .next t ∧
      s.wroteReg t rt (0#16 ++ ((s.reg rs).extractLsb' 0 16 &&& imm)) ∧ s.restSame t ∧ t.pc = s.pc + 4 ∧
      s.cost t [(.gpr rs, 3)] (some (.gpr rt)) 4 false)

/-- R102: LUI replaces the whole register and never stalls. Bits 25:21 are ignored. -/
def Obligations.LuiComputesAndFrame : Prop :=
  ∀ (rt : Reg) (imm : BitVec 16) (s : State),
    (∀ (te : TrapEncoding) (rs : BitVec 5), te.wf →
      decode te (0x0F#6 ++ rs ++ fieldOf rt ++ imm) = .instr (.lui rt imm)) ∧
    ∃ t, exec (.lui rt imm) s = .next t ∧
      s.wroteReg t rt (BitVec.ofNat 32 (imm.toNat * 2 ^ 16)) ∧ s.restSame t ∧ t.pc = s.pc + 4 ∧
      t.bubbles = s.bubbles ∧ s.cost t [] (some (.gpr rt)) 4 false

/-- R105: LW loads the word `DMEM[k]` of its effective address `DMEM_BASE + 4k`; an invalid address raises
`DataAccessError`, misaligned first, and changes nothing else. -/
def Obligations.LoadWordComputesAndFrame : Prop :=
  ∀ (rt rs : Reg) (imm : BitVec 16) (s : State) (ea : Word), s.params.dmemFits →
    ea = BitVec.ofInt 32 ((s.reg rs).toNat + imm.toInt) →
    (∀ te : TrapEncoding, te.wf →
      decode te (0x23#6 ++ fieldOf rs ++ fieldOf rt ++ imm) = .instr (.lw rt rs imm)) ∧
    (s.validAddress ea → s.wordIndex ea < s.params.dmemSize / 4 ∧
      s.params.dmemBase + 4 * s.wordIndex ea = ea.toNat ∧ ∃ t, exec (.lw rt rs imm) s = .next t ∧
      s.wroteReg t rt (s.dmemWord (s.wordIndex ea)) ∧ s.restSame t ∧ t.pc = s.pc + 4 ∧
      s.cost t [(.gpr rs, 3)] (some (.gpr rt)) 6 false) ∧
    (ea.toNat % 4 ≠ 0 → exec (.lw rt rs imm) s = .next (s.withFatal (.dataAccess s.pc ea .unaligned))) ∧
    (ea.toNat % 4 = 0 → ¬ s.validAddress ea →
      exec (.lw rt rs imm) s = .next (s.withFatal (.dataAccess s.pc ea .outOfBounds)))

/-- R106 (the data operand at stage 4: the spec's decision D10): SW stores its word in `DMEM[k]` of its effective
address `DMEM_BASE + 4k` and leaves every other word; an invalid address raises `DataAccessError`, misaligned first, and
changes nothing else. -/
def Obligations.StoreWordComputesAndFrame : Prop :=
  ∀ (rt rs : Reg) (imm : BitVec 16) (s : State) (ea : Word), s.params.dmemFits → s.dmem.wf →
    ea = BitVec.ofInt 32 ((s.reg rs).toNat + imm.toInt) →
    (∀ te : TrapEncoding, te.wf →
      decode te (0x2B#6 ++ fieldOf rs ++ fieldOf rt ++ imm) = .instr (.sw rt rs imm)) ∧
    (s.validAddress ea → s.wordIndex ea < s.params.dmemSize / 4 ∧
      s.params.dmemBase + 4 * s.wordIndex ea = ea.toNat ∧ ∃ t, exec (.sw rt rs imm) s = .next t ∧
      t.dmemWord (s.wordIndex ea) = s.reg rt ∧ s.sameMemOutside t (s.wordIndex ea) ∧
      s.sameRegs t ∧ s.sameAcc t ∧ s.sameConsole t ∧ s.sameRun t ∧ t.pc = s.pc + 4 ∧
      s.cost t [(.gpr rs, 3), (.gpr rt, 4)] none 0 false) ∧
    (ea.toNat % 4 ≠ 0 → exec (.sw rt rs imm) s = .next (s.withFatal (.dataAccess s.pc ea .unaligned))) ∧
    (ea.toNat % 4 = 0 → ¬ s.validAddress ea →
      exec (.sw rt rs imm) s = .next (s.withFatal (.dataAccess s.pc ea .outOfBounds)))

/-- R42: a load returns the value of the most recent store to the same word, and every other word reads as before the
store; the store is visible to the very next instruction. -/
def Obligations.LoadSeesTheLatestStore : Prop :=
  ∀ (rt rs : Reg) (imm : BitVec 16) (s t : State), s.dmem.wf →
    s.validAddress (s.effectiveAddress rs imm) → exec (.sw rt rs imm) s = .next t →
    t.loadWord (s.effectiveAddress rs imm) = .ok (s.reg rt) ∧
    (∀ ea, ea ≠ s.effectiveAddress rs imm → t.loadWord ea = s.loadWord ea) ∧
    (∀ (rt' rs' : Reg) (imm' : BitVec 16), t.effectiveAddress rs' imm' = s.effectiveAddress rs imm → rt' ≠ 0 →
      ∃ u, exec (.lw rt' rs' imm') t = .next u ∧ u.reg rt' = s.reg rt)

/-- R110 (the top four bits: the spec's decision D9): J goes to `{(pc + 4)[31:28], target26, 00}`, with no dependency
check and one flush. -/
def Obligations.JumpTargetAndFrame : Prop :=
  ∀ (target : BitVec 26) (s : State),
    (∀ te : TrapEncoding, te.wf → decode te (0x02#6 ++ target) = .instr (.j target)) ∧
    ∃ t, exec (.j target) s = .next t ∧
      t.pc.toNat = (s.pc + 4).toNat / 2 ^ 28 * 2 ^ 28 + target.toNat * 4 ∧
      s.sameRegs t ∧ s.restSame t ∧ s.cost t [] none 0 true

/-- R111 (no delay slot: the spec's decisions D7, D9): JAL goes where J would and leaves the address of the
instruction after it in register 31. -/
def Obligations.JumpAndLinkTargetAndFrame : Prop :=
  ∀ (target : BitVec 26) (s : State),
    (∀ te : TrapEncoding, te.wf → decode te (0x03#6 ++ target) = .instr (.jal target)) ∧
    ∃ t, exec (.jal target) s = .next t ∧
      t.pc.toNat = (s.pc + 4).toNat / 2 ^ 28 * 2 ^ 28 + target.toNat * 4 ∧
      t.reg 31 = s.pc + 4 ∧ (∀ r : Reg, r ≠ 31 → t.reg r = s.reg r) ∧ s.restSame t ∧
      s.cost t [] (some (.gpr 31)) 4 true

/-- R112: JR goes to all 32 bits of its register, unchecked: a bad target raises `FetchRangeError` in the next step.
Bits 20:6 are ignored. -/
def Obligations.JumpRegisterTargetAndFrame : Prop :=
  ∀ (rs : Reg) (s : State),
    (∀ (te : TrapEncoding) (ignored : BitVec 15),
      decode te (0x00#6 ++ fieldOf rs ++ ignored ++ 0x08#6) = .instr (.jr rs)) ∧
    ∃ t, exec (.jr rs) s = .next t ∧ t.pc = s.reg rs ∧ s.sameRegs t ∧ s.restSame t ∧
      s.cost t [(.gpr rs, 3)] none 0 true ∧
      (s.status = .running → s.outsideImage (s.reg rs) → step t = .next (t.withFatal (.fetchRange (s.reg rs))))

/-- R115(d): no transfer checks its target: a taken transfer to an address that is misaligned or outside the image
retires and is counted, and the next step raises `FetchRangeError` with that address. -/
def Obligations.BadTargetFaultsAtTheNextFetch : Prop :=
  ∀ (i : Instr) (s t : State), s.status = .running → i.taken s = true → s.outsideImage (s.pcAfter i) →
    exec i s = .next t →
    t.instructions = s.instructions + 1 ∧ t.flushes = s.flushes + 2 ∧ t.pc = s.pcAfter i ∧
    step t = .next (t.withFatal (.fetchRange (s.pcAfter i)))

/-- R113, R114 (the target: the spec's decision D8): BEQ and BNE compare all 32 bits; taken they go to `pc + 4` plus
four times the signed immediate and flush, untaken to `pc + 4` and do not. -/
def Obligations.BranchesTargetAndFrame : Prop :=
  ∀ (rs rt : Reg) (imm : BitVec 16) (s : State),
    (∀ te : TrapEncoding, te.wf →
      decode te (0x04#6 ++ fieldOf rs ++ fieldOf rt ++ imm) = .instr (.beq rs rt imm) ∧
      decode te (0x05#6 ++ fieldOf rs ++ fieldOf rt ++ imm) = .instr (.bne rs rt imm)) ∧
    (∃ t, exec (.beq rs rt imm) s = .next t ∧ s.sameRegs t ∧ s.restSame t ∧
      (s.reg rs = s.reg rt → t.pc = BitVec.ofInt 32 (s.pc.toNat + 4 + 4 * imm.toInt) ∧
        s.cost t [(.gpr rs, 3), (.gpr rt, 3)] none 0 true) ∧
      (s.reg rs ≠ s.reg rt → t.pc = s.pc + 4 ∧ s.cost t [(.gpr rs, 3), (.gpr rt, 3)] none 0 false)) ∧
    (∃ t, exec (.bne rs rt imm) s = .next t ∧ s.sameRegs t ∧ s.restSame t ∧
      (s.reg rs ≠ s.reg rt → t.pc = BitVec.ofInt 32 (s.pc.toNat + 4 + 4 * imm.toInt) ∧
        s.cost t [(.gpr rs, 3), (.gpr rt, 3)] none 0 true) ∧
      (s.reg rs = s.reg rt → t.pc = s.pc + 4 ∧ s.cost t [(.gpr rs, 3), (.gpr rt, 3)] none 0 false))

/-- R121 (the spec's decisions D6, D10, D28): TRAP.PRINT hands the console the signed reading of its register. Bits
20:4 are ignored. -/
def Obligations.TrapPrintEmitsSignedInteger : Prop :=
  ∀ (rs : Reg) (s : State),
    (∀ (te : TrapEncoding) (ignored : BitVec 17), te.wf →
      decode te (te.opcode ++ fieldOf rs ++ ignored ++ te.printInt) = .instr (.trapPrint rs)) ∧
    ∃ t, exec (.trapPrint rs) s = .next t ∧ t.consoleOut = s.consoleOut ++ [.int (s.reg rs).toInt] ∧
      t.consoleIn = s.consoleIn ∧ s.sameRegs t ∧ s.sameAcc t ∧ s.sameMem t ∧ s.sameRun t ∧ t.pc = s.pc + 4 ∧
      s.cost t [(.gpr rs, 3)] none 0 false

/-- R122: TRAP.NL asks the console for a newline and never stalls. Bits 25:4 are ignored. -/
def Obligations.TrapNewlineEmitsNewline : Prop :=
  ∀ s : State,
    (∀ (te : TrapEncoding) (ignored : BitVec 22), te.wf →
      decode te (te.opcode ++ ignored ++ te.newline) = .instr .trapNl) ∧
    ∃ t, exec .trapNl s = .next t ∧ t.consoleOut = s.consoleOut ++ [.newline] ∧
      t.consoleIn = s.consoleIn ∧ s.sameRegs t ∧ s.sameAcc t ∧ s.sameMem t ∧ s.sameRun t ∧ t.pc = s.pc + 4 ∧
      t.bubbles = s.bubbles ∧ s.cost t [] none 0 false

/-- R123 (the spec's decisions D6, D14): TRAP.READ writes the console's answer, whatever it is, and takes it (a
register 0 destination discards it); while there is no answer it waits and nothing changes (the answers as a field of
the state are the model's, log 7). Bits 25:21 and 15:4 are ignored. -/
def Obligations.TrapReadTakesAnswerOrWaits : Prop :=
  ∀ (rt : Reg) (s : State),
    (∀ (te : TrapEncoding) (rs : BitVec 5) (ignored : BitVec 12), te.wf →
      decode te (te.opcode ++ rs ++ fieldOf rt ++ ignored ++ te.readInt) = .instr (.trapRead rt)) ∧
    (∀ (v : Word) (rest : List Word), s.consoleIn = v :: rest → ∃ t, exec (.trapRead rt) s = .next t ∧
      s.wroteReg t rt v ∧ t.consoleIn = rest ∧ t.consoleOut = s.consoleOut ∧
      s.sameAcc t ∧ s.sameMem t ∧ s.sameRun t ∧ t.pc = s.pc + 4 ∧
      t.bubbles = s.bubbles ∧ s.cost t [] (some (.gpr rt)) 4 false) ∧
    (s.consoleIn = [] → exec (.trapRead rt) s = .next s)

/-- R124 (the spec's decisions D6, D24, D27): TRAP.HALT is counted, leaves the pc at its own address plus 4, and
halts; it never stalls and never flushes. Bits 25:4 are ignored. -/
def Obligations.TrapHaltHalts : Prop :=
  ∀ s : State,
    (∀ (te : TrapEncoding) (ignored : BitVec 22), te.wf →
      decode te (te.opcode ++ ignored ++ te.halt) = .instr .trapHalt) ∧
    ∃ t, exec .trapHalt s = .next t ∧ t.status = .halted ∧ t.pc = s.pc + 4 ∧
      t.params = s.params ∧ s.sameRegs t ∧ s.sameAcc t ∧ s.sameMem t ∧ s.sameConsole t ∧
      t.bubbles = s.bubbles ∧ t.flushes = s.flushes ∧ s.cost t [] none 0 false
end

