-- ==== Sys2Proof/Laws/Decode.lean ====
section
/-! SUPPORT. What the Decoder reads back from each format's word, field by field (`30_encoding.md` R46, R47), and a word as
the join of its fields. -/

namespace Sys2Proof

@[simp] theorem regOf_fieldOf (r : Reg) : regOf (fieldOf r) = r := rfl
@[simp] theorem fieldOf_regOf (b : BitVec 5) : fieldOf (regOf b) = b := rfl
@[simp] theorem toFin_fieldOf (r : Fin 32) : (fieldOf r).toFin = r := rfl

/-- Format R. -/
theorem fields_registerWord (rs rt rd : Reg) (sh : Shamt) (fn : BitVec 6) :
    fields (registerWord rs rt rd sh fn) =
      { op := 0, rs := fieldOf rs, rt := fieldOf rt, rd := fieldOf rd, shamt := fieldOf sh, funct := fn
        imm16 := fieldOf rd ++ fieldOf sh ++ fn
        target26 := fieldOf rs ++ fieldOf rt ++ fieldOf rd ++ fieldOf sh ++ fn
        code4 := fn.extractLsb' 0 4 } := by
  unfold fields registerWord
  congr 1 <;> ext i hi <;> simp
  all_goals grind

/-- Format I: the fields its forms use. -/
theorem fields_immediateWord (op : BitVec 6) (rs rt : Reg) (imm : BitVec 16) :
    (fields (immediateWord op rs rt imm)).op = op ∧
    (fields (immediateWord op rs rt imm)).rs = fieldOf rs ∧
    (fields (immediateWord op rs rt imm)).rt = fieldOf rt ∧
    (fields (immediateWord op rs rt imm)).imm16 = imm := by
  unfold fields immediateWord
  refine ⟨?_, ?_, ?_, ?_⟩ <;> ext i hi <;> simp
  all_goals grind

/-- Format J: the fields its forms use. -/
theorem fields_jumpWord (op : BitVec 6) (target : BitVec 26) :
    (fields (jumpWord op target)).op = op ∧ (fields (jumpWord op target)).target26 = target := by
  unfold fields jumpWord
  refine ⟨?_, ?_⟩ <;> ext i hi <;> simp
  all_goals grind

/-- Format T: the fields its forms use. -/
theorem fields_trapWord (op : BitVec 6) (rs rt : Reg) (code : BitVec 4) :
    (fields (trapWord op rs rt code)).op = op ∧
    (fields (trapWord op rs rt code)).rs = fieldOf rs ∧
    (fields (trapWord op rs rt code)).rt = fieldOf rt ∧
    (fields (trapWord op rs rt code)).code4 = code := by
  unfold fields trapWord
  refine ⟨?_, ?_, ?_, ?_⟩ <;> ext i hi <;> simp
  all_goals grind

/-! ### A word as the join of its fields, and the rows it selects -/

/-- Two joins are equal exactly when both parts are. -/
theorem append_inj {m n : Nat} {a b : BitVec m} {c d : BitVec n} : a ++ c = b ++ d ↔ a = b ∧ c = d := by
  constructor
  · intro h
    refine ⟨BitVec.eq_of_getLsbD_eq fun i hi => ?_, BitVec.eq_of_getLsbD_eq fun i hi => ?_⟩
    · have := congrArg (fun x : BitVec (m + n) => x.getLsbD (n + i)) h
      simpa [BitVec.getLsbD_append] using this
    · have := congrArg (fun x : BitVec (m + n) => x.getLsbD i) h
      simpa [BitVec.getLsbD_append, hi] using this
  · rintro ⟨rfl, rfl⟩; rfl

theorem word_join_op_funct (w : Word) : w = ((fields w).op ++ w.extractLsb' 6 20) ++ (fields w).funct := by
  unfold fields; ext i hi; simp; grind

theorem word_join_op_target (w : Word) : w = (fields w).op ++ (fields w).target26 := by
  unfold fields; ext i hi; simp; grind

theorem word_join_op_code (w : Word) : w = ((fields w).op ++ w.extractLsb' 4 22) ++ (fields w).code4 := by
  unfold fields; ext i hi; simp; grind

/-- Exactly when a word selects a register-format row, in terms of its fields (R49, R50). -/
theorem registerRow_selects (name : String) (fn : BitVec 6) (w : Word) :
    (registerRow name fn).selects w ↔ (fields w).op = 0#6 ∧ (fields w).funct = fn := by
  have hm : (0xFC00003F : Word) = (BitVec.allOnes 6 ++ 0#20) ++ BitVec.allOnes 6 := by decide
  have hz : (0#26 : BitVec 26) = 0#6 ++ 0#20 := by decide
  show w &&& (0xFC00003F : Word) = 0#26 ++ fn ↔ _
  conv_lhs => rw [word_join_op_funct w, hm, hz]
  rw [BitVec.and_append, BitVec.and_append, append_inj, append_inj]
  simp only [BitVec.and_allOnes, BitVec.and_zero, and_true]

/-- Exactly when a word selects a primary-opcode row. -/
theorem primaryRow_selects (name : String) (op : BitVec 6) (w : Word) :
    (primaryRow name op).selects w ↔ (fields w).op = op := by
  have hm : (0xFC000000 : Word) = BitVec.allOnes 6 ++ 0#26 := by decide
  show w &&& (0xFC000000 : Word) = op ++ 0#26 ↔ _
  conv_lhs => rw [word_join_op_target w, hm]
  rw [BitVec.and_append, append_inj]
  simp only [BitVec.and_allOnes, BitVec.and_zero, and_true]

/-- Exactly when a word selects a trap row. -/
theorem trapRow_selects (name : String) (op : BitVec 6) (code : BitVec 4) (w : Word) :
    (trapRow name op code).selects w ↔ (fields w).op = op ∧ (fields w).code4 = code := by
  have hm : (0xFC00000F : Word) = (BitVec.allOnes 6 ++ 0#22) ++ BitVec.allOnes 4 := by decide
  show w &&& (0xFC00000F : Word) = (op ++ 0#22) ++ code ↔ _
  conv_lhs => rw [word_join_op_code w, hm]
  rw [BitVec.and_append, BitVec.and_append, append_inj, append_inj]
  simp only [BitVec.and_allOnes, BitVec.and_zero, and_true]

/-- Format R's join (R46: the six fields "tile the word exactly"). -/
theorem word_join_register (w : Word) : w = (fields w).op ++ (fields w).rs ++ (fields w).rt ++ (fields w).rd ++
    (fields w).shamt ++ (fields w).funct := by
  unfold fields; ext i hi; simp; grind

theorem word_join_immediate (w : Word) :
    w = (fields w).op ++ (fields w).rs ++ (fields w).rt ++ (fields w).imm16 := by
  unfold fields; ext i hi; simp; grind

theorem word_join_trap (w : Word) :
    w = (fields w).op ++ (fields w).rs ++ (fields w).rt ++ w.extractLsb' 4 12 ++ (fields w).code4 := by
  unfold fields; ext i hi; simp; grind

/-! ### What decoding to an instruction says of the fields, once per function -/

theorem ite_eq_cases {α : Type} {c : Prop} [Decidable c] {a b x : α} :
    (if c then a else b) = x ↔ (c ∧ a = x) ∨ (¬c ∧ b = x) := by
  by_cases h : c <;> simp [h]

theorem decodeRegister_inv {f : Fields} {i : Instr} (h : decodeRegister f = .instr i) :
    (f.funct = 0x00#6 ∧ i = .sll (regOf f.rd) (regOf f.rt) f.shamt.toFin) ∨
    (f.funct = 0x02#6 ∧ i = .srl (regOf f.rd) (regOf f.rt) f.shamt.toFin) ∨
    (f.funct = 0x03#6 ∧ i = .sra (regOf f.rd) (regOf f.rt) f.shamt.toFin) ∨
    (f.funct = 0x08#6 ∧ i = .jr (regOf f.rs)) ∨
    (f.funct = 0x10#6 ∧ i = .mfhi (regOf f.rd)) ∨
    (f.funct = 0x12#6 ∧ i = .mflo (regOf f.rd)) ∨
    (f.funct = 0x18#6 ∧ i = .mult (regOf f.rs) (regOf f.rt)) ∨
    (f.funct = 0x1A#6 ∧ i = .div (regOf f.rs) (regOf f.rt)) ∨
    (f.funct = 0x21#6 ∧ i = .addu (regOf f.rd) (regOf f.rs) (regOf f.rt)) ∨
    (f.funct = 0x23#6 ∧ i = .subu (regOf f.rd) (regOf f.rs) (regOf f.rt)) ∨
    (f.funct = 0x2A#6 ∧ i = .slt (regOf f.rd) (regOf f.rs) (regOf f.rt)) := by
  simp only [decodeRegister, ite_eq_cases, Decoded.instr.injEq, reduceCtorEq, and_false, or_false] at h
  rcases h with ⟨hf, rfl⟩ | ⟨-, ⟨hf, rfl⟩ | ⟨-, ⟨hf, rfl⟩ | ⟨-, ⟨hf, rfl⟩ | ⟨-, ⟨hf, rfl⟩ | ⟨-, ⟨hf, rfl⟩ | ⟨-, ⟨hf, rfl⟩ | ⟨-, ⟨hf, rfl⟩ | ⟨-, ⟨hf, rfl⟩ | ⟨-, ⟨hf, rfl⟩ | ⟨-, ⟨hf, rfl⟩⟩⟩⟩⟩⟩⟩⟩⟩⟩⟩
  all_goals simp [hf]

theorem decodeTrap_inv {te : TrapEncoding} {f : Fields} {i : Instr} (h : decodeTrap te f = .instr i) :
    (f.code4 = te.newline ∧ i = .trapNl) ∨
    (f.code4 = te.printInt ∧ i = .trapPrint (regOf f.rs)) ∨
    (f.code4 = te.readInt ∧ i = .trapRead (regOf f.rt)) ∨
    (f.code4 = te.halt ∧ i = .trapHalt) := by
  simp only [decodeTrap, ite_eq_cases, Decoded.instr.injEq, reduceCtorEq, and_false, or_false] at h
  rcases h with ⟨hf, rfl⟩ | ⟨-, ⟨hf, rfl⟩ | ⟨-, ⟨hf, rfl⟩ | ⟨-, ⟨hf, rfl⟩⟩⟩⟩
  all_goals simp [hf]

theorem decodePrimary_inv {f : Fields} {i : Instr} (h : decodePrimary f = .instr i) :
    (f.op = 0x02#6 ∧ i = .j f.target26) ∨
    (f.op = 0x03#6 ∧ i = .jal f.target26) ∨
    (f.op = 0x04#6 ∧ i = .beq (regOf f.rs) (regOf f.rt) f.imm16) ∨
    (f.op = 0x05#6 ∧ i = .bne (regOf f.rs) (regOf f.rt) f.imm16) ∨
    (f.op = 0x09#6 ∧ i = .addiu (regOf f.rt) (regOf f.rs) f.imm16) ∨
    (f.op = 0x0C#6 ∧ i = .andi (regOf f.rt) (regOf f.rs) f.imm16) ∨
    (f.op = 0x0F#6 ∧ i = .lui (regOf f.rt) f.imm16) ∨
    (f.op = 0x23#6 ∧ i = .lw (regOf f.rt) (regOf f.rs) f.imm16) ∨
    (f.op = 0x2B#6 ∧ i = .sw (regOf f.rt) (regOf f.rs) f.imm16) := by
  simp only [decodePrimary, ite_eq_cases, Decoded.instr.injEq, reduceCtorEq, and_false, or_false] at h
  rcases h with ⟨hf, rfl⟩ | ⟨-, ⟨hf, rfl⟩ | ⟨-, ⟨hf, rfl⟩ | ⟨-, ⟨hf, rfl⟩ | ⟨-, ⟨hf, rfl⟩ | ⟨-, ⟨hf, rfl⟩ | ⟨-, ⟨hf, rfl⟩ | ⟨-, ⟨hf, rfl⟩ | ⟨-, ⟨hf, rfl⟩⟩⟩⟩⟩⟩⟩⟩⟩
  all_goals simp [hf]

/-- R49: which family's table decided. -/
theorem decode_inv {te : TrapEncoding} {w : Word} {i : Instr} (h : decode te w = .instr i) :
    ((fields w).op = 0#6 ∧ decodeRegister (fields w) = .instr i) ∨
    ((fields w).op ≠ 0#6 ∧ (fields w).op = te.opcode ∧ decodeTrap te (fields w) = .instr i) ∨
    ((fields w).op ≠ 0#6 ∧ (fields w).op ≠ te.opcode ∧ decodePrimary (fields w) = .instr i) := by
  simp only [decode, ite_eq_cases] at h
  rcases h with ⟨h0, h⟩ | ⟨h0, ⟨h1, h⟩ | ⟨h1, h⟩⟩
  exacts [.inl ⟨h0, h⟩, .inr (.inl ⟨h0, h1, h⟩), .inr (.inr ⟨h0, h1, h⟩)]

/-- Words equal under a mask agree in every field the mask covers. -/
theorem extract_eq_of_masked {w w' m : Word} (lo n : Nat) (h : w' &&& m = w &&& m)
    (hm : m.extractLsb' lo n = BitVec.allOnes n) : w'.extractLsb' lo n = w.extractLsb' lo n := by
  have := congrArg (BitVec.extractLsb' lo n) h
  rwa [BitVec.extractLsb'_and, BitVec.extractLsb'_and, hm, BitVec.and_allOnes, BitVec.and_allOnes] at this

/-! ### What R7's constraints say, as inequations -/

theorem TrapEncoding.wf_codes {te : TrapEncoding} (h : te.wf) :
    te.newline ≠ te.printInt ∧ te.newline ≠ te.readInt ∧ te.newline ≠ te.halt ∧
    te.printInt ≠ te.readInt ∧ te.printInt ≠ te.halt ∧ te.readInt ≠ te.halt := by
  have := h.1
  simp [TrapEncoding.codesDistinct] at this
  tauto

theorem TrapEncoding.wf_opcode {te : TrapEncoding} (h : te.wf) :
    te.opcode ≠ 0x00#6 ∧ te.opcode ≠ 0x02#6 ∧ te.opcode ≠ 0x03#6 ∧ te.opcode ≠ 0x04#6 ∧ te.opcode ≠ 0x05#6 ∧
    te.opcode ≠ 0x09#6 ∧ te.opcode ≠ 0x0C#6 ∧ te.opcode ≠ 0x0F#6 ∧ te.opcode ≠ 0x23#6 ∧ te.opcode ≠ 0x2B#6 := by
  simpa [TrapEncoding.opcodeFree, primaryOpcodes] using h.2

/-! ### Which family a word is dispatched to (R49) -/

theorem decode_of_register {te : TrapEncoding} {w : Word} (h : (fields w).op = 0#6) :
    decode te w = decodeRegister (fields w) := by
  unfold decode; simp only [h, if_true]

theorem decode_of_trap {te : TrapEncoding} {w : Word} (hw : te.wf) (h : (fields w).op = te.opcode) :
    decode te w = decodeTrap te (fields w) := by
  have h0 : te.opcode ≠ 0#6 := (TrapEncoding.wf_opcode hw).1
  unfold decode; simp only [h, if_neg h0, if_true]

theorem decode_of_primary {te : TrapEncoding} {w : Word} (hw : te.wf) (h0 : (fields w).op ≠ 0#6)
    (h : (fields w).op ∈ primaryOpcodes) : decode te w = decodePrimary (fields w) := by
  have ht : (fields w).op ≠ te.opcode := fun e => hw.2 (e ▸ h)
  unfold decode; simp only [if_neg h0, if_neg ht]

end Sys2Proof
end

