-- ==== Sys2Proof/Laws/Memory.lean ====
section
/-! SUPPORT. Data memory: a read after a write, the canonical form kept by every operation, the indices a write
can add, and the port (`20_memory.md` R31 to R36, R42). -/

namespace Sys2Proof.Machine

/-! ### One word -/

@[simp] theorem Memory.read_nil (a : Nat) : Memory.read [] a = Memory.blank := rfl

theorem Memory.read_cons (k : Nat) (v : Word) (m : Memory) (a : Nat) :
    Memory.read ((k, v) :: m) a = if k = a then v else m.read a := rfl

/-- An address no cell lists reads as the blank. -/
theorem Memory.read_unlisted (m : Memory) (a : Nat) (h : ∀ c ∈ m, c.1 ≠ a) : m.read a = Memory.blank := by
  induction m with
  | nil => rfl
  | cons c rest ih =>
    obtain ⟨k, v⟩ := c
    have hk : k ≠ a := h (k, v) (by simp)
    rw [Memory.read_cons, if_neg hk]
    exact ih fun c hc => h c (by simp [hc])

theorem Memory.read_put (a : Nat) (b : Word) (m : Memory) (x : Nat) (h : ∀ c ∈ m, a < c.1) :
    (Memory.put a b m).read x = if a = x then b else m.read x := by
  unfold Memory.put
  split
  · next hb =>
    split
    · next hx =>
      subst hx
      rw [hb]
      exact m.read_unlisted a fun c hc => by have := h c hc; omega
    · rfl
  · exact Memory.read_cons a b m x

/-- R34, R42: a read after a write. -/
theorem Memory.read_write (m : Memory) (a : Nat) (b : Word) (x : Nat) (h : m.wf) :
    (m.write a b).read x = if a = x then b else m.read x := by
  obtain ⟨hs, hb⟩ := h
  induction m with
  | nil => exact Memory.read_put a b [] x (by simp)
  | cons c rest ih =>
    obtain ⟨k, v⟩ := c
    rw [List.pairwise_cons] at hs
    unfold Memory.write
    split
    · next hak =>
      apply Memory.read_put
      intro c hc
      rcases List.mem_cons.1 hc with rfl | hc
      · exact hak
      · have := hs.1 c hc; simp only at this; omega
    · split
      · next hak =>
        subst hak
        rw [Memory.read_put _ _ _ _ fun c hc => hs.1 c hc, Memory.read_cons]
        split <;> rfl
      · next hak =>
        rw [Memory.read_cons, Memory.read_cons, ih hs.2 fun c hc => hb c (by simp [hc])]
        by_cases hkx : k = x
        · rw [if_pos hkx, if_pos hkx, if_neg (by omega)]
        · rw [if_neg hkx, if_neg hkx]

/-- A cell of a written memory is the cell written or a cell that was there. -/
theorem Memory.mem_put {a : Nat} {b : Word} {m : Memory} {c : (Nat × Word)} (h : c ∈ Memory.put a b m) :
    (c = (a, b) ∧ b ≠ Memory.blank) ∨ c ∈ m := by
  unfold Memory.put at h
  split at h
  · exact .inr h
  · next hb => rcases List.mem_cons.1 h with rfl | h; exacts [.inl ⟨rfl, hb⟩, .inr h]

theorem Memory.mem_write {m : Memory} {a : Nat} {b : Word} {c : (Nat × Word)} (h : c ∈ m.write a b) :
    (c = (a, b) ∧ b ≠ Memory.blank) ∨ c ∈ m := by
  induction m with
  | nil => exact Memory.mem_put h
  | cons d rest ih =>
    obtain ⟨k, v⟩ := d
    unfold Memory.write at h
    split at h
    · exact Memory.mem_put h
    · split at h
      · rcases Memory.mem_put h with h | h
        · exact .inl h
        · exact .inr (by simp [h])
      · rcases List.mem_cons.1 h with rfl | h
        · exact .inr (by simp)
        · rcases ih h with h | h
          · exact .inl h
          · exact .inr (by simp [h])

theorem Memory.put_wf {a : Nat} {b : Word} {m : Memory} (h : m.wf) (ha : ∀ c ∈ m, a < c.1) :
    (Memory.put a b m).wf := by
  unfold Memory.put
  split
  · exact h
  · next hb =>
    refine ⟨List.pairwise_cons.2 ⟨ha, h.1⟩, fun c hc => ?_⟩
    rcases List.mem_cons.1 hc with rfl | hc
    exacts [hb, h.2 c hc]

/-- A write keeps the canonical form. -/
theorem Memory.write_wf {m : Memory} (a : Nat) (b : Word) (h : m.wf) : (m.write a b).wf := by
  induction m with
  | nil => exact Memory.put_wf h (by simp)
  | cons c rest ih =>
    obtain ⟨k, v⟩ := c
    have hs := List.pairwise_cons.1 h.1
    have hrest : Memory.wf rest := ⟨hs.2, fun c hc => h.2 c (by simp [hc])⟩
    unfold Memory.write
    split
    · next hak =>
      apply Memory.put_wf h
      intro c hc
      rcases List.mem_cons.1 hc with rfl | hc
      · exact hak
      · have := hs.1 c hc; simp only at this; omega
    · split
      · next hak =>
        subst hak
        exact Memory.put_wf hrest fun c hc => hs.1 c hc
      · next hak hne =>
        have hw := ih hrest
        refine ⟨List.pairwise_cons.2 ⟨fun c hc => ?_, hw.1⟩, fun c hc => ?_⟩
        · rcases Memory.mem_write hc with ⟨rfl, _⟩ | hc
          · simp only; omega
          · exact hs.1 c hc
        · rcases List.mem_cons.1 hc with rfl | hc
          exacts [h.2 _ (by simp), hw.2 c hc]

/-- Equal readings are equal data: the canonical form is unique. -/
theorem Memory.ext_of_read {m n : Memory} (hm : m.wf) (hn : n.wf) (h : ∀ a, m.read a = n.read a) : m = n := by
  induction m generalizing n with
  | nil =>
    cases n with
    | nil => rfl
    | cons d rest =>
      obtain ⟨k, v⟩ := d
      have := h k
      rw [Memory.read_cons, if_pos rfl] at this
      exact absurd this.symm (hn.2 (k, v) (by simp))
  | cons c rest ih =>
    obtain ⟨k, v⟩ := c
    have hs := List.pairwise_cons.1 hm.1
    have hv : v ≠ Memory.blank := hm.2 (k, v) (by simp)
    cases n with
    | nil =>
      have := h k
      rw [Memory.read_cons, if_pos rfl] at this
      exact absurd this hv
    | cons d rest' =>
      obtain ⟨k', v'⟩ := d
      have hs' := List.pairwise_cons.1 hn.1
      have hv' : v' ≠ Memory.blank := hn.2 (k', v') (by simp)
      have below : ∀ {j : Nat} {l : Memory} {x : Word}, (∀ c ∈ l, j < c.1) → ∀ i, i < j →
          Memory.read ((j, x) :: l) i = Memory.blank := by
        intro j l x hl i hi
        refine Memory.read_unlisted _ _ fun c hc => ?_
        rcases List.mem_cons.1 hc with rfl | hc
        · simp only; omega
        · have := hl c hc; omega
      have hk : k = k' := by
        rcases Nat.lt_trichotomy k k' with hlt | he | hlt
        · have := h k
          rw [below hs'.1 k hlt, Memory.read_cons, if_pos rfl] at this
          exact absurd this hv
        · exact he
        · have := h k'
          rw [below hs.1 k' hlt, Memory.read_cons, if_pos rfl] at this
          exact absurd this.symm hv'
      subst hk
      have hvv : v = v' := by
        have := h k
        rwa [Memory.read_cons, Memory.read_cons, if_pos rfl, if_pos rfl] at this
      subst hvv
      congr 1
      refine ih ⟨hs.2, fun c hc => hm.2 c (by simp [hc])⟩ ⟨hs'.2, fun c hc => hn.2 c (by simp [hc])⟩ fun a => ?_
      by_cases hka : k = a
      · subst hka
        rw [Memory.read_unlisted rest k fun c hc => by have := hs.1 c hc; simp only at this; omega,
          Memory.read_unlisted rest' k fun c hc => by have := hs'.1 c hc; simp only at this; omega]
      · have := h a
        rwa [Memory.read_cons, Memory.read_cons, if_neg hka, if_neg hka] at this

/-! ### The data-memory port (R31 to R35) -/

/-- An address is valid exactly when it is aligned and inside the region (R31). -/
theorem State.badAddress_none_iff (s : State) (ea : Word) :
    s.badAddress ea = none ↔
      ea.toNat % 4 = 0 ∧ s.params.dmemBase ≤ ea.toNat ∧ ea.toNat < s.params.dmemBase + s.params.dmemSize := by
  unfold State.badAddress
  split
  · simp; omega
  · split <;> simp_all

/-- The reason recorded: `unaligned` first (R35). -/
theorem State.badAddress_some_iff (s : State) (ea : Word) (r : AccessReason) :
    s.badAddress ea = some r ↔
      (r = .unaligned ∧ ea.toNat % 4 ≠ 0) ∨
      (r = .outOfBounds ∧ ea.toNat % 4 = 0 ∧
        ¬(s.params.dmemBase ≤ ea.toNat ∧ ea.toNat < s.params.dmemBase + s.params.dmemSize)) := by
  unfold State.badAddress
  cases r <;> (split; · simp_all) <;> split <;> simp_all

/-- `LoadWord` (R33), once: the word at a valid address, the reason at an invalid one. -/
theorem State.loadWord_eq (s : State) (ea : Word) :
    s.loadWord ea = match s.badAddress ea with
      | some reason => .error reason
      | none => .ok (s.dmemWord (s.wordIndex ea)) := rfl

theorem State.loadWord_valid (s : State) (ea : Word) (h : s.badAddress ea = none) :
    s.loadWord ea = .ok (s.dmemWord (s.wordIndex ea)) := by
  rw [State.loadWord_eq, h]

theorem State.loadWord_invalid (s : State) (ea : Word) (r : AccessReason) (h : s.badAddress ea = some r) :
    s.loadWord ea = .error r := by
  rw [State.loadWord_eq, h]

/-- `StoreWord` (R34) at a valid address: data memory and nothing else. -/
theorem State.storeWord_valid (s : State) (v ea : Word) (h : s.badAddress ea = none) :
    s.storeWord v ea = .ok { s with dmem := s.dmem.write (s.wordIndex ea) v } := by
  unfold State.storeWord; rw [h]

theorem State.storeWord_invalid (s : State) (v ea : Word) (r : AccessReason) (h : s.badAddress ea = some r) :
    s.storeWord v ea = .error r := by
  unfold State.storeWord; rw [h]

/-- Every word of data memory after word `k` is written (R34, R42). -/
theorem State.dmemWord_write (s : State) (k : Nat) (v : Word) (j : Nat) (hw : s.dmem.wf) :
    ({ s with dmem := s.dmem.write k v } : State).dmemWord j = if k = j then v else s.dmemWord j :=
  Memory.read_write _ _ _ _ hw

/-- The word index of a valid address is an index of `DMEM`, and the word's own address is that address (R31, R16). -/
theorem State.wordIndex_valid (s : State) (ea : Word) (hp : s.params.dmemFits) (h : s.badAddress ea = none) :
    s.wordIndex ea < s.params.dmemSize / 4 ∧ s.params.dmemBase + 4 * s.wordIndex ea = ea.toNat := by
  obtain ⟨h4, hlo, hhi⟩ := (s.badAddress_none_iff ea).1 h
  obtain ⟨hb, hz, -, -⟩ := hp
  unfold State.wordIndex
  omega

/-- R32: a valid word has all four of its byte addresses inside the region. -/
theorem State.valid_word_inside (s : State) (ea : Word) (hp : s.params.dmemFits) (h : s.badAddress ea = none) :
    s.params.dmemBase ≤ ea.toNat ∧ ea.toNat + 4 ≤ s.params.dmemBase + s.params.dmemSize := by
  obtain ⟨h4, hlo, hhi⟩ := (s.badAddress_none_iff ea).1 h
  obtain ⟨hb, hz, -, -⟩ := hp
  omega

/-- Two different valid addresses are two different words. -/
theorem State.wordIndex_injective (s : State) (a b : Word) (ha : s.badAddress a = none) (hb : s.badAddress b = none)
    (h : a ≠ b) : s.wordIndex a ≠ s.wordIndex b := by
  obtain ⟨a4, alo, -⟩ := (s.badAddress_none_iff a).1 ha
  obtain ⟨b4, blo, -⟩ := (s.badAddress_none_iff b).1 hb
  have : a.toNat ≠ b.toNat := fun e => h (BitVec.eq_of_toNat_eq e)
  unfold State.wordIndex
  omega

end Sys2Proof.Machine
end

