-- ==== Sys2Proof/Laws/State.lean ====
section
/-! SUPPORT. What each update of the state does to each field, and to each view of the state, one lemma each, so that no
proof unfolds a record update. -/

namespace Sys2Proof.Machine

variable (s : State)

/-! ### `writeReg`: `x[r] <- v` (R11) -/

@[simp] theorem State.writeReg_params (r : Reg) (v : Word) : (s.writeReg r v).params = s.params := rfl
@[simp] theorem State.writeReg_regs (r : Reg) (v : Word) : (s.writeReg r v).regs = if r = 0 then s.regs else s.regs.set r v := rfl
@[simp] theorem State.writeReg_hi (r : Reg) (v : Word) : (s.writeReg r v).hi = s.hi := rfl
@[simp] theorem State.writeReg_lo (r : Reg) (v : Word) : (s.writeReg r v).lo = s.lo := rfl
@[simp] theorem State.writeReg_pc (r : Reg) (v : Word) : (s.writeReg r v).pc = s.pc := rfl
@[simp] theorem State.writeReg_dmem (r : Reg) (v : Word) : (s.writeReg r v).dmem = s.dmem := rfl
@[simp] theorem State.writeReg_tracker (r : Reg) (v : Word) : (s.writeReg r v).tracker = s.tracker := rfl
@[simp] theorem State.writeReg_instructions (r : Reg) (v : Word) : (s.writeReg r v).instructions = s.instructions := rfl
@[simp] theorem State.writeReg_bubbles (r : Reg) (v : Word) : (s.writeReg r v).bubbles = s.bubbles := rfl
@[simp] theorem State.writeReg_flushes (r : Reg) (v : Word) : (s.writeReg r v).flushes = s.flushes := rfl
@[simp] theorem State.writeReg_status (r : Reg) (v : Word) : (s.writeReg r v).status = s.status := rfl
@[simp] theorem State.writeReg_consoleIn (r : Reg) (v : Word) : (s.writeReg r v).consoleIn = s.consoleIn := rfl
@[simp] theorem State.writeReg_consoleOut (r : Reg) (v : Word) : (s.writeReg r v).consoleOut = s.consoleOut := rfl
@[simp] theorem State.writeReg_nextPc (r : Reg) (v : Word) :
    (s.writeReg r v).nextPc = s.nextPc := rfl
@[simp] theorem State.writeReg_jumpTarget (r : Reg) (v : Word) (g : BitVec 26) :
    (s.writeReg r v).jumpTarget g = s.jumpTarget g := rfl
@[simp] theorem State.writeReg_branchTarget (r : Reg) (v : Word) (imm : BitVec 16) :
    (s.writeReg r v).branchTarget imm = s.branchTarget imm := rfl
@[simp] theorem State.writeReg_badAddress (r : Reg) (v : Word) (ea : Word) :
    (s.writeReg r v).badAddress ea = s.badAddress ea := rfl
@[simp] theorem State.writeReg_loadWord (r : Reg) (v : Word) (ea : Word) :
    (s.writeReg r v).loadWord ea = s.loadWord ea := rfl

/-! ### `writeAcc`: `HI`, `LO` written together (R94) -/

@[simp] theorem State.writeAcc_params (h l : Word) : (s.writeAcc h l).params = s.params := rfl
@[simp] theorem State.writeAcc_regs (h l : Word) : (s.writeAcc h l).regs = s.regs := rfl
@[simp] theorem State.writeAcc_hi (h l : Word) : (s.writeAcc h l).hi = h := rfl
@[simp] theorem State.writeAcc_lo (h l : Word) : (s.writeAcc h l).lo = l := rfl
@[simp] theorem State.writeAcc_pc (h l : Word) : (s.writeAcc h l).pc = s.pc := rfl
@[simp] theorem State.writeAcc_dmem (h l : Word) : (s.writeAcc h l).dmem = s.dmem := rfl
@[simp] theorem State.writeAcc_tracker (h l : Word) : (s.writeAcc h l).tracker = s.tracker := rfl
@[simp] theorem State.writeAcc_instructions (h l : Word) : (s.writeAcc h l).instructions = s.instructions := rfl
@[simp] theorem State.writeAcc_bubbles (h l : Word) : (s.writeAcc h l).bubbles = s.bubbles := rfl
@[simp] theorem State.writeAcc_flushes (h l : Word) : (s.writeAcc h l).flushes = s.flushes := rfl
@[simp] theorem State.writeAcc_status (h l : Word) : (s.writeAcc h l).status = s.status := rfl
@[simp] theorem State.writeAcc_consoleIn (h l : Word) : (s.writeAcc h l).consoleIn = s.consoleIn := rfl
@[simp] theorem State.writeAcc_consoleOut (h l : Word) : (s.writeAcc h l).consoleOut = s.consoleOut := rfl
@[simp] theorem State.writeAcc_reg (h l : Word) (i : Reg) :
    (s.writeAcc h l).reg i = s.reg i := rfl
@[simp] theorem State.writeAcc_nextPc (h l : Word) :
    (s.writeAcc h l).nextPc = s.nextPc := rfl
@[simp] theorem State.writeAcc_effectiveAddress (h l : Word) (i : Reg) (imm : BitVec 16) :
    (s.writeAcc h l).effectiveAddress i imm = s.effectiveAddress i imm := rfl
@[simp] theorem State.writeAcc_jumpTarget (h l : Word) (g : BitVec 26) :
    (s.writeAcc h l).jumpTarget g = s.jumpTarget g := rfl
@[simp] theorem State.writeAcc_branchTarget (h l : Word) (imm : BitVec 16) :
    (s.writeAcc h l).branchTarget imm = s.branchTarget imm := rfl
@[simp] theorem State.writeAcc_badAddress (h l : Word) (ea : Word) :
    (s.writeAcc h l).badAddress ea = s.badAddress ea := rfl
@[simp] theorem State.writeAcc_loadWord (h l : Word) (ea : Word) :
    (s.writeAcc h l).loadWord ea = s.loadWord ea := rfl

/-! ### `setPc`: `pc <- t` (R15) -/

@[simp] theorem State.setPc_params (t : Word) : (s.setPc t).params = s.params := rfl
@[simp] theorem State.setPc_regs (t : Word) : (s.setPc t).regs = s.regs := rfl
@[simp] theorem State.setPc_hi (t : Word) : (s.setPc t).hi = s.hi := rfl
@[simp] theorem State.setPc_lo (t : Word) : (s.setPc t).lo = s.lo := rfl
@[simp] theorem State.setPc_pc (t : Word) : (s.setPc t).pc = t := rfl
@[simp] theorem State.setPc_dmem (t : Word) : (s.setPc t).dmem = s.dmem := rfl
@[simp] theorem State.setPc_tracker (t : Word) : (s.setPc t).tracker = s.tracker := rfl
@[simp] theorem State.setPc_instructions (t : Word) : (s.setPc t).instructions = s.instructions := rfl
@[simp] theorem State.setPc_bubbles (t : Word) : (s.setPc t).bubbles = s.bubbles := rfl
@[simp] theorem State.setPc_flushes (t : Word) : (s.setPc t).flushes = s.flushes := rfl
@[simp] theorem State.setPc_status (t : Word) : (s.setPc t).status = s.status := rfl
@[simp] theorem State.setPc_consoleIn (t : Word) : (s.setPc t).consoleIn = s.consoleIn := rfl
@[simp] theorem State.setPc_consoleOut (t : Word) : (s.setPc t).consoleOut = s.consoleOut := rfl
@[simp] theorem State.setPc_reg (t : Word) (i : Reg) :
    (s.setPc t).reg i = s.reg i := rfl
@[simp] theorem State.setPc_effectiveAddress (t : Word) (i : Reg) (imm : BitVec 16) :
    (s.setPc t).effectiveAddress i imm = s.effectiveAddress i imm := rfl
@[simp] theorem State.setPc_badAddress (t : Word) (ea : Word) :
    (s.setPc t).badAddress ea = s.badAddress ea := rfl
@[simp] theorem State.setPc_loadWord (t : Word) (ea : Word) :
    (s.setPc t).loadWord ea = s.loadWord ea := rfl

/-! ### `advancePc`: `pc <- pc + 4` (R15) -/

@[simp] theorem State.advancePc_params : (s.advancePc).params = s.params := rfl
@[simp] theorem State.advancePc_regs : (s.advancePc).regs = s.regs := rfl
@[simp] theorem State.advancePc_hi : (s.advancePc).hi = s.hi := rfl
@[simp] theorem State.advancePc_lo : (s.advancePc).lo = s.lo := rfl
@[simp] theorem State.advancePc_pc : (s.advancePc).pc = s.pc + 4 := rfl
@[simp] theorem State.advancePc_dmem : (s.advancePc).dmem = s.dmem := rfl
@[simp] theorem State.advancePc_tracker : (s.advancePc).tracker = s.tracker := rfl
@[simp] theorem State.advancePc_instructions : (s.advancePc).instructions = s.instructions := rfl
@[simp] theorem State.advancePc_bubbles : (s.advancePc).bubbles = s.bubbles := rfl
@[simp] theorem State.advancePc_flushes : (s.advancePc).flushes = s.flushes := rfl
@[simp] theorem State.advancePc_status : (s.advancePc).status = s.status := rfl
@[simp] theorem State.advancePc_consoleIn : (s.advancePc).consoleIn = s.consoleIn := rfl
@[simp] theorem State.advancePc_consoleOut : (s.advancePc).consoleOut = s.consoleOut := rfl
@[simp] theorem State.advancePc_reg (i : Reg) :
    (s.advancePc).reg i = s.reg i := rfl
@[simp] theorem State.advancePc_effectiveAddress (i : Reg) (imm : BitVec 16) :
    (s.advancePc).effectiveAddress i imm = s.effectiveAddress i imm := rfl
@[simp] theorem State.advancePc_badAddress (ea : Word) :
    (s.advancePc).badAddress ea = s.badAddress ea := rfl
@[simp] theorem State.advancePc_loadWord (ea : Word) :
    (s.advancePc).loadWord ea = s.loadWord ea := rfl

/-! ### `stall`: `Stall` (R68) -/

@[simp] theorem State.stall_params (k : TrackIdx) (n : Nat) : (s.stall k n).params = s.params := rfl
@[simp] theorem State.stall_regs (k : TrackIdx) (n : Nat) : (s.stall k n).regs = s.regs := rfl
@[simp] theorem State.stall_hi (k : TrackIdx) (n : Nat) : (s.stall k n).hi = s.hi := rfl
@[simp] theorem State.stall_lo (k : TrackIdx) (n : Nat) : (s.stall k n).lo = s.lo := rfl
@[simp] theorem State.stall_pc (k : TrackIdx) (n : Nat) : (s.stall k n).pc = s.pc := rfl
@[simp] theorem State.stall_dmem (k : TrackIdx) (n : Nat) : (s.stall k n).dmem = s.dmem := rfl
@[simp] theorem State.stall_tracker (k : TrackIdx) (n : Nat) : (s.stall k n).tracker = s.tracker.stalled k n := rfl
@[simp] theorem State.stall_instructions (k : TrackIdx) (n : Nat) : (s.stall k n).instructions = s.instructions := rfl
@[simp] theorem State.stall_bubbles (k : TrackIdx) (n : Nat) : (s.stall k n).bubbles = s.bubbles + s.tracker.check k n := rfl
@[simp] theorem State.stall_flushes (k : TrackIdx) (n : Nat) : (s.stall k n).flushes = s.flushes := rfl
@[simp] theorem State.stall_status (k : TrackIdx) (n : Nat) : (s.stall k n).status = s.status := rfl
@[simp] theorem State.stall_consoleIn (k : TrackIdx) (n : Nat) : (s.stall k n).consoleIn = s.consoleIn := rfl
@[simp] theorem State.stall_consoleOut (k : TrackIdx) (n : Nat) : (s.stall k n).consoleOut = s.consoleOut := rfl
@[simp] theorem State.stall_reg (k : TrackIdx) (n : Nat) (i : Reg) :
    (s.stall k n).reg i = s.reg i := rfl
@[simp] theorem State.stall_nextPc (k : TrackIdx) (n : Nat) :
    (s.stall k n).nextPc = s.nextPc := rfl
@[simp] theorem State.stall_effectiveAddress (k : TrackIdx) (n : Nat) (i : Reg) (imm : BitVec 16) :
    (s.stall k n).effectiveAddress i imm = s.effectiveAddress i imm := rfl
@[simp] theorem State.stall_jumpTarget (k : TrackIdx) (n : Nat) (g : BitVec 26) :
    (s.stall k n).jumpTarget g = s.jumpTarget g := rfl
@[simp] theorem State.stall_branchTarget (k : TrackIdx) (n : Nat) (imm : BitVec 16) :
    (s.stall k n).branchTarget imm = s.branchTarget imm := rfl
@[simp] theorem State.stall_badAddress (k : TrackIdx) (n : Nat) (ea : Word) :
    (s.stall k n).badAddress ea = s.badAddress ea := rfl
@[simp] theorem State.stall_loadWord (k : TrackIdx) (n : Nat) (ea : Word) :
    (s.stall k n).loadWord ea = s.loadWord ea := rfl

/-! ### `need`: one ordinary operand (R65, R68) -/

@[simp] theorem State.need_params (r : Reg) : (s.need r).params = s.params := rfl
@[simp] theorem State.need_regs (r : Reg) : (s.need r).regs = s.regs := rfl
@[simp] theorem State.need_hi (r : Reg) : (s.need r).hi = s.hi := rfl
@[simp] theorem State.need_lo (r : Reg) : (s.need r).lo = s.lo := rfl
@[simp] theorem State.need_pc (r : Reg) : (s.need r).pc = s.pc := rfl
@[simp] theorem State.need_dmem (r : Reg) : (s.need r).dmem = s.dmem := rfl
@[simp] theorem State.need_tracker (r : Reg) : (s.need r).tracker = s.tracker.stalled (.gpr r) 3 := rfl
@[simp] theorem State.need_instructions (r : Reg) : (s.need r).instructions = s.instructions := rfl
@[simp] theorem State.need_bubbles (r : Reg) : (s.need r).bubbles = s.bubbles + s.tracker.check (.gpr r) 3 := rfl
@[simp] theorem State.need_flushes (r : Reg) : (s.need r).flushes = s.flushes := rfl
@[simp] theorem State.need_status (r : Reg) : (s.need r).status = s.status := rfl
@[simp] theorem State.need_consoleIn (r : Reg) : (s.need r).consoleIn = s.consoleIn := rfl
@[simp] theorem State.need_consoleOut (r : Reg) : (s.need r).consoleOut = s.consoleOut := rfl
@[simp] theorem State.need_reg (r : Reg) (i : Reg) :
    (s.need r).reg i = s.reg i := rfl
@[simp] theorem State.need_nextPc (r : Reg) :
    (s.need r).nextPc = s.nextPc := rfl
@[simp] theorem State.need_effectiveAddress (r : Reg) (i : Reg) (imm : BitVec 16) :
    (s.need r).effectiveAddress i imm = s.effectiveAddress i imm := rfl
@[simp] theorem State.need_jumpTarget (r : Reg) (g : BitVec 26) :
    (s.need r).jumpTarget g = s.jumpTarget g := rfl
@[simp] theorem State.need_branchTarget (r : Reg) (imm : BitVec 16) :
    (s.need r).branchTarget imm = s.branchTarget imm := rfl
@[simp] theorem State.need_badAddress (r : Reg) (ea : Word) :
    (s.need r).badAddress ea = s.badAddress ea := rfl
@[simp] theorem State.need_loadWord (r : Reg) (ea : Word) :
    (s.need r).loadWord ea = s.loadWord ea := rfl

/-! ### `need2`: two ordinary operands (R71) -/

@[simp] theorem State.need2_params (r q : Reg) : (s.need2 r q).params = s.params := rfl
@[simp] theorem State.need2_regs (r q : Reg) : (s.need2 r q).regs = s.regs := rfl
@[simp] theorem State.need2_hi (r q : Reg) : (s.need2 r q).hi = s.hi := rfl
@[simp] theorem State.need2_lo (r q : Reg) : (s.need2 r q).lo = s.lo := rfl
@[simp] theorem State.need2_pc (r q : Reg) : (s.need2 r q).pc = s.pc := rfl
@[simp] theorem State.need2_dmem (r q : Reg) : (s.need2 r q).dmem = s.dmem := rfl
@[simp] theorem State.need2_tracker (r q : Reg) : (s.need2 r q).tracker = (s.tracker.stalled (.gpr r) 3).stalled (.gpr q) 3 := rfl
@[simp] theorem State.need2_instructions (r q : Reg) : (s.need2 r q).instructions = s.instructions := rfl
@[simp] theorem State.need2_bubbles (r q : Reg) : (s.need2 r q).bubbles = s.bubbles + s.tracker.check (.gpr r) 3 + (s.tracker.stalled (.gpr r) 3).check (.gpr q) 3 := rfl
@[simp] theorem State.need2_flushes (r q : Reg) : (s.need2 r q).flushes = s.flushes := rfl
@[simp] theorem State.need2_status (r q : Reg) : (s.need2 r q).status = s.status := rfl
@[simp] theorem State.need2_consoleIn (r q : Reg) : (s.need2 r q).consoleIn = s.consoleIn := rfl
@[simp] theorem State.need2_consoleOut (r q : Reg) : (s.need2 r q).consoleOut = s.consoleOut := rfl
@[simp] theorem State.need2_reg (r q : Reg) (i : Reg) :
    (s.need2 r q).reg i = s.reg i := rfl
@[simp] theorem State.need2_nextPc (r q : Reg) :
    (s.need2 r q).nextPc = s.nextPc := rfl
@[simp] theorem State.need2_effectiveAddress (r q : Reg) (i : Reg) (imm : BitVec 16) :
    (s.need2 r q).effectiveAddress i imm = s.effectiveAddress i imm := rfl
@[simp] theorem State.need2_jumpTarget (r q : Reg) (g : BitVec 26) :
    (s.need2 r q).jumpTarget g = s.jumpTarget g := rfl
@[simp] theorem State.need2_branchTarget (r q : Reg) (imm : BitVec 16) :
    (s.need2 r q).branchTarget imm = s.branchTarget imm := rfl
@[simp] theorem State.need2_badAddress (r q : Reg) (ea : Word) :
    (s.need2 r q).badAddress ea = s.badAddress ea := rfl
@[simp] theorem State.need2_loadWord (r q : Reg) (ea : Word) :
    (s.need2 r q).loadWord ea = s.loadWord ea := rfl

/-! ### `retire`: `Retire` (R69) -/

@[simp] theorem State.retire_params (d : Option TrackIdx) (a : Nat) : (s.retire d a).params = s.params := rfl
@[simp] theorem State.retire_regs (d : Option TrackIdx) (a : Nat) : (s.retire d a).regs = s.regs := rfl
@[simp] theorem State.retire_hi (d : Option TrackIdx) (a : Nat) : (s.retire d a).hi = s.hi := rfl
@[simp] theorem State.retire_lo (d : Option TrackIdx) (a : Nat) : (s.retire d a).lo = s.lo := rfl
@[simp] theorem State.retire_pc (d : Option TrackIdx) (a : Nat) : (s.retire d a).pc = s.pc := rfl
@[simp] theorem State.retire_dmem (d : Option TrackIdx) (a : Nat) : (s.retire d a).dmem = s.dmem := rfl
@[simp] theorem State.retire_tracker (d : Option TrackIdx) (a : Nat) : (s.retire d a).tracker = s.tracker.advance d a := rfl
@[simp] theorem State.retire_instructions (d : Option TrackIdx) (a : Nat) : (s.retire d a).instructions = s.instructions + 1 := rfl
@[simp] theorem State.retire_bubbles (d : Option TrackIdx) (a : Nat) : (s.retire d a).bubbles = s.bubbles := rfl
@[simp] theorem State.retire_flushes (d : Option TrackIdx) (a : Nat) : (s.retire d a).flushes = s.flushes := rfl
@[simp] theorem State.retire_status (d : Option TrackIdx) (a : Nat) : (s.retire d a).status = s.status := rfl
@[simp] theorem State.retire_consoleIn (d : Option TrackIdx) (a : Nat) : (s.retire d a).consoleIn = s.consoleIn := rfl
@[simp] theorem State.retire_consoleOut (d : Option TrackIdx) (a : Nat) : (s.retire d a).consoleOut = s.consoleOut := rfl
@[simp] theorem State.retire_reg (d : Option TrackIdx) (a : Nat) (i : Reg) :
    (s.retire d a).reg i = s.reg i := rfl
@[simp] theorem State.retire_nextPc (d : Option TrackIdx) (a : Nat) :
    (s.retire d a).nextPc = s.nextPc := rfl
@[simp] theorem State.retire_effectiveAddress (d : Option TrackIdx) (a : Nat) (i : Reg) (imm : BitVec 16) :
    (s.retire d a).effectiveAddress i imm = s.effectiveAddress i imm := rfl
@[simp] theorem State.retire_jumpTarget (d : Option TrackIdx) (a : Nat) (g : BitVec 26) :
    (s.retire d a).jumpTarget g = s.jumpTarget g := rfl
@[simp] theorem State.retire_branchTarget (d : Option TrackIdx) (a : Nat) (imm : BitVec 16) :
    (s.retire d a).branchTarget imm = s.branchTarget imm := rfl
@[simp] theorem State.retire_badAddress (d : Option TrackIdx) (a : Nat) (ea : Word) :
    (s.retire d a).badAddress ea = s.badAddress ea := rfl
@[simp] theorem State.retire_loadWord (d : Option TrackIdx) (a : Nat) (ea : Word) :
    (s.retire d a).loadWord ea = s.loadWord ea := rfl

/-! ### `flush`: `Flush` (R70) -/

@[simp] theorem State.flush_params : (s.flush).params = s.params := rfl
@[simp] theorem State.flush_regs : (s.flush).regs = s.regs := rfl
@[simp] theorem State.flush_hi : (s.flush).hi = s.hi := rfl
@[simp] theorem State.flush_lo : (s.flush).lo = s.lo := rfl
@[simp] theorem State.flush_pc : (s.flush).pc = s.pc := rfl
@[simp] theorem State.flush_dmem : (s.flush).dmem = s.dmem := rfl
@[simp] theorem State.flush_tracker : (s.flush).tracker = (s.tracker.advance none 0).advance none 0 := rfl
@[simp] theorem State.flush_instructions : (s.flush).instructions = s.instructions := rfl
@[simp] theorem State.flush_bubbles : (s.flush).bubbles = s.bubbles := rfl
@[simp] theorem State.flush_flushes : (s.flush).flushes = s.flushes + 2 := rfl
@[simp] theorem State.flush_status : (s.flush).status = s.status := rfl
@[simp] theorem State.flush_consoleIn : (s.flush).consoleIn = s.consoleIn := rfl
@[simp] theorem State.flush_consoleOut : (s.flush).consoleOut = s.consoleOut := rfl
@[simp] theorem State.flush_reg (i : Reg) :
    (s.flush).reg i = s.reg i := rfl
@[simp] theorem State.flush_nextPc :
    (s.flush).nextPc = s.nextPc := rfl
@[simp] theorem State.flush_effectiveAddress (i : Reg) (imm : BitVec 16) :
    (s.flush).effectiveAddress i imm = s.effectiveAddress i imm := rfl
@[simp] theorem State.flush_jumpTarget (g : BitVec 26) :
    (s.flush).jumpTarget g = s.jumpTarget g := rfl
@[simp] theorem State.flush_branchTarget (imm : BitVec 16) :
    (s.flush).branchTarget imm = s.branchTarget imm := rfl
@[simp] theorem State.flush_badAddress (ea : Word) :
    (s.flush).badAddress ea = s.badAddress ea := rfl
@[simp] theorem State.flush_loadWord (ea : Word) :
    (s.flush).loadWord ea = s.loadWord ea := rfl

/-! ### `halt`: `status <- HALTED` (R124) -/

@[simp] theorem State.halt_params : (s.halt).params = s.params := rfl
@[simp] theorem State.halt_regs : (s.halt).regs = s.regs := rfl
@[simp] theorem State.halt_hi : (s.halt).hi = s.hi := rfl
@[simp] theorem State.halt_lo : (s.halt).lo = s.lo := rfl
@[simp] theorem State.halt_pc : (s.halt).pc = s.pc := rfl
@[simp] theorem State.halt_dmem : (s.halt).dmem = s.dmem := rfl
@[simp] theorem State.halt_tracker : (s.halt).tracker = s.tracker := rfl
@[simp] theorem State.halt_instructions : (s.halt).instructions = s.instructions := rfl
@[simp] theorem State.halt_bubbles : (s.halt).bubbles = s.bubbles := rfl
@[simp] theorem State.halt_flushes : (s.halt).flushes = s.flushes := rfl
@[simp] theorem State.halt_status : (s.halt).status = .halted := rfl
@[simp] theorem State.halt_consoleIn : (s.halt).consoleIn = s.consoleIn := rfl
@[simp] theorem State.halt_consoleOut : (s.halt).consoleOut = s.consoleOut := rfl
@[simp] theorem State.halt_reg (i : Reg) :
    (s.halt).reg i = s.reg i := rfl
@[simp] theorem State.halt_nextPc :
    (s.halt).nextPc = s.nextPc := rfl
@[simp] theorem State.halt_effectiveAddress (i : Reg) (imm : BitVec 16) :
    (s.halt).effectiveAddress i imm = s.effectiveAddress i imm := rfl
@[simp] theorem State.halt_jumpTarget (g : BitVec 26) :
    (s.halt).jumpTarget g = s.jumpTarget g := rfl
@[simp] theorem State.halt_branchTarget (imm : BitVec 16) :
    (s.halt).branchTarget imm = s.branchTarget imm := rfl
@[simp] theorem State.halt_badAddress (ea : Word) :
    (s.halt).badAddress ea = s.badAddress ea := rfl
@[simp] theorem State.halt_loadWord (ea : Word) :
    (s.halt).loadWord ea = s.loadWord ea := rfl

/-! ### `consoleOutInt`: `ConsoleOutInt` (R120) -/

@[simp] theorem State.consoleOutInt_params (v : Word) : (s.consoleOutInt v).params = s.params := rfl
@[simp] theorem State.consoleOutInt_regs (v : Word) : (s.consoleOutInt v).regs = s.regs := rfl
@[simp] theorem State.consoleOutInt_hi (v : Word) : (s.consoleOutInt v).hi = s.hi := rfl
@[simp] theorem State.consoleOutInt_lo (v : Word) : (s.consoleOutInt v).lo = s.lo := rfl
@[simp] theorem State.consoleOutInt_pc (v : Word) : (s.consoleOutInt v).pc = s.pc := rfl
@[simp] theorem State.consoleOutInt_dmem (v : Word) : (s.consoleOutInt v).dmem = s.dmem := rfl
@[simp] theorem State.consoleOutInt_tracker (v : Word) : (s.consoleOutInt v).tracker = s.tracker := rfl
@[simp] theorem State.consoleOutInt_instructions (v : Word) : (s.consoleOutInt v).instructions = s.instructions := rfl
@[simp] theorem State.consoleOutInt_bubbles (v : Word) : (s.consoleOutInt v).bubbles = s.bubbles := rfl
@[simp] theorem State.consoleOutInt_flushes (v : Word) : (s.consoleOutInt v).flushes = s.flushes := rfl
@[simp] theorem State.consoleOutInt_status (v : Word) : (s.consoleOutInt v).status = s.status := rfl
@[simp] theorem State.consoleOutInt_consoleIn (v : Word) : (s.consoleOutInt v).consoleIn = s.consoleIn := rfl
@[simp] theorem State.consoleOutInt_consoleOut (v : Word) : (s.consoleOutInt v).consoleOut = s.consoleOut ++ [.int v.toInt] := rfl
@[simp] theorem State.consoleOutInt_reg (v : Word) (i : Reg) :
    (s.consoleOutInt v).reg i = s.reg i := rfl
@[simp] theorem State.consoleOutInt_nextPc (v : Word) :
    (s.consoleOutInt v).nextPc = s.nextPc := rfl
@[simp] theorem State.consoleOutInt_effectiveAddress (v : Word) (i : Reg) (imm : BitVec 16) :
    (s.consoleOutInt v).effectiveAddress i imm = s.effectiveAddress i imm := rfl
@[simp] theorem State.consoleOutInt_jumpTarget (v : Word) (g : BitVec 26) :
    (s.consoleOutInt v).jumpTarget g = s.jumpTarget g := rfl
@[simp] theorem State.consoleOutInt_branchTarget (v : Word) (imm : BitVec 16) :
    (s.consoleOutInt v).branchTarget imm = s.branchTarget imm := rfl
@[simp] theorem State.consoleOutInt_badAddress (v : Word) (ea : Word) :
    (s.consoleOutInt v).badAddress ea = s.badAddress ea := rfl
@[simp] theorem State.consoleOutInt_loadWord (v : Word) (ea : Word) :
    (s.consoleOutInt v).loadWord ea = s.loadWord ea := rfl

/-! ### `consoleOutNewline`: `ConsoleOutNewline` (R120) -/

@[simp] theorem State.consoleOutNewline_params : (s.consoleOutNewline).params = s.params := rfl
@[simp] theorem State.consoleOutNewline_regs : (s.consoleOutNewline).regs = s.regs := rfl
@[simp] theorem State.consoleOutNewline_hi : (s.consoleOutNewline).hi = s.hi := rfl
@[simp] theorem State.consoleOutNewline_lo : (s.consoleOutNewline).lo = s.lo := rfl
@[simp] theorem State.consoleOutNewline_pc : (s.consoleOutNewline).pc = s.pc := rfl
@[simp] theorem State.consoleOutNewline_dmem : (s.consoleOutNewline).dmem = s.dmem := rfl
@[simp] theorem State.consoleOutNewline_tracker : (s.consoleOutNewline).tracker = s.tracker := rfl
@[simp] theorem State.consoleOutNewline_instructions : (s.consoleOutNewline).instructions = s.instructions := rfl
@[simp] theorem State.consoleOutNewline_bubbles : (s.consoleOutNewline).bubbles = s.bubbles := rfl
@[simp] theorem State.consoleOutNewline_flushes : (s.consoleOutNewline).flushes = s.flushes := rfl
@[simp] theorem State.consoleOutNewline_status : (s.consoleOutNewline).status = s.status := rfl
@[simp] theorem State.consoleOutNewline_consoleIn : (s.consoleOutNewline).consoleIn = s.consoleIn := rfl
@[simp] theorem State.consoleOutNewline_consoleOut : (s.consoleOutNewline).consoleOut = s.consoleOut ++ [.newline] := rfl
@[simp] theorem State.consoleOutNewline_reg (i : Reg) :
    (s.consoleOutNewline).reg i = s.reg i := rfl
@[simp] theorem State.consoleOutNewline_nextPc :
    (s.consoleOutNewline).nextPc = s.nextPc := rfl
@[simp] theorem State.consoleOutNewline_effectiveAddress (i : Reg) (imm : BitVec 16) :
    (s.consoleOutNewline).effectiveAddress i imm = s.effectiveAddress i imm := rfl
@[simp] theorem State.consoleOutNewline_jumpTarget (g : BitVec 26) :
    (s.consoleOutNewline).jumpTarget g = s.jumpTarget g := rfl
@[simp] theorem State.consoleOutNewline_branchTarget (imm : BitVec 16) :
    (s.consoleOutNewline).branchTarget imm = s.branchTarget imm := rfl
@[simp] theorem State.consoleOutNewline_badAddress (ea : Word) :
    (s.consoleOutNewline).badAddress ea = s.badAddress ea := rfl
@[simp] theorem State.consoleOutNewline_loadWord (ea : Word) :
    (s.consoleOutNewline).loadWord ea = s.loadWord ea := rfl

/-! ### `supplyInput`: the console answers (R120) -/

@[simp] theorem State.supplyInput_params (vs : List Word) : (s.supplyInput vs).params = s.params := rfl
@[simp] theorem State.supplyInput_regs (vs : List Word) : (s.supplyInput vs).regs = s.regs := rfl
@[simp] theorem State.supplyInput_hi (vs : List Word) : (s.supplyInput vs).hi = s.hi := rfl
@[simp] theorem State.supplyInput_lo (vs : List Word) : (s.supplyInput vs).lo = s.lo := rfl
@[simp] theorem State.supplyInput_pc (vs : List Word) : (s.supplyInput vs).pc = s.pc := rfl
@[simp] theorem State.supplyInput_dmem (vs : List Word) : (s.supplyInput vs).dmem = s.dmem := rfl
@[simp] theorem State.supplyInput_tracker (vs : List Word) : (s.supplyInput vs).tracker = s.tracker := rfl
@[simp] theorem State.supplyInput_instructions (vs : List Word) : (s.supplyInput vs).instructions = s.instructions := rfl
@[simp] theorem State.supplyInput_bubbles (vs : List Word) : (s.supplyInput vs).bubbles = s.bubbles := rfl
@[simp] theorem State.supplyInput_flushes (vs : List Word) : (s.supplyInput vs).flushes = s.flushes := rfl
@[simp] theorem State.supplyInput_status (vs : List Word) : (s.supplyInput vs).status = s.status := rfl
@[simp] theorem State.supplyInput_consoleIn (vs : List Word) : (s.supplyInput vs).consoleIn = s.consoleIn ++ vs := rfl
@[simp] theorem State.supplyInput_consoleOut (vs : List Word) : (s.supplyInput vs).consoleOut = s.consoleOut := rfl
@[simp] theorem State.supplyInput_reg (vs : List Word) (i : Reg) :
    (s.supplyInput vs).reg i = s.reg i := rfl
@[simp] theorem State.supplyInput_nextPc (vs : List Word) :
    (s.supplyInput vs).nextPc = s.nextPc := rfl
@[simp] theorem State.supplyInput_effectiveAddress (vs : List Word) (i : Reg) (imm : BitVec 16) :
    (s.supplyInput vs).effectiveAddress i imm = s.effectiveAddress i imm := rfl
@[simp] theorem State.supplyInput_jumpTarget (vs : List Word) (g : BitVec 26) :
    (s.supplyInput vs).jumpTarget g = s.jumpTarget g := rfl
@[simp] theorem State.supplyInput_branchTarget (vs : List Word) (imm : BitVec 16) :
    (s.supplyInput vs).branchTarget imm = s.branchTarget imm := rfl
@[simp] theorem State.supplyInput_badAddress (vs : List Word) (ea : Word) :
    (s.supplyInput vs).badAddress ea = s.badAddress ea := rfl
@[simp] theorem State.supplyInput_loadWord (vs : List Word) (ea : Word) :
    (s.supplyInput vs).loadWord ea = s.loadWord ea := rfl

/-! ### Registers -/

@[simp] theorem State.reg_zero : s.reg 0 = 0 := rfl

/-- R11: a write is seen by a read of that register unless it is register 0, and by no other read. -/
theorem State.writeReg_reg (d : Reg) (v : Word) (r : Reg) :
    (s.writeReg d v).reg r = if r = d ∧ d ≠ 0 then v else s.reg r := by
  by_cases hr : r = 0
  · subst hr
    by_cases hd : d = 0 <;> simp [State.reg, hd, eq_comm]
  · by_cases hd : d = 0
    · simp [State.reg, State.writeReg, hd]
    · by_cases h : r = d
      · subst h; simp [State.reg, State.writeReg, hr]
      · have : d.val ≠ r.val := fun e => h (Fin.ext e.symm)
        simp [State.reg, State.writeReg, hr, hd, h, this]

theorem State.writeReg_reg_same (d : Reg) (v : Word) :
    (s.writeReg d v).reg d = if d = 0 then 0 else v := by
  rw [State.writeReg_reg]
  by_cases h : d = 0 <;> simp [h]

theorem State.writeReg_reg_other (d r : Reg) (v : Word) (h : r ≠ d) :
    (s.writeReg d v).reg r = s.reg r := by
  rw [State.writeReg_reg]; simp [h]

/-- The cell behind register 0 is never written (R11). -/
theorem State.writeReg_zeroCell (d : Reg) (v : Word) : (s.writeReg d v).regs[0] = s.regs[0] := by
  by_cases hd : d = 0
  · simp [hd]
  · have : d.val ≠ 0 := fun e => hd (Fin.ext e)
    simp [hd, this]

/-- Every register at the start of a run (R26). -/
theorem State.start_reg (p : Params) (r : Reg) :
    (State.start p).reg r = if r = 28 then p.gpInit else if r = 29 then p.spInit else 0 := by
  revert r
  simp only [State.reg, State.start, startRegs]
  intro r
  fin_cases r <;> simp

end Sys2Proof.Machine
end

