-- ==== Sys2Proof/Laws/Tracker.lean ====
section
/-! SUPPORT. The Hazard Tracker: slot by slot what `Advance` does (`40_step_and_tracker.md` R62), which slot decides
`CheckDependency` (R63), and the bound of R19(c) kept by every tracker operation. -/

namespace Sys2Proof.Machine

/-- Two trackers with the same slots are the same. -/
theorem Tracker.ext_slots {t u : Tracker} (h : ∀ i : Fin 8, t[i] = u[i]) : t = u :=
  Vector.ext fun i hi => h ⟨i, hi⟩

/-- R62: the new entry occupies slot 0. -/
theorem Tracker.advance_youngest (t : Tracker) (d : Option TrackIdx) (a : Nat) : (t.advance d a)[0] = ⟨d, a⟩ := by
  simp [Tracker.advance]

/-- R62: every other entry is one slot older, its count decremented. -/
theorem Tracker.advance_older (t : Tracker) (d : Option TrackIdx) (a i : Nat) (h : i + 1 < 8) :
    (t.advance d a)[i + 1] = (t[i]).aged := by
  simp [Tracker.advance]

/-- R62, both at once, over the slot number. -/
theorem Tracker.advance_slot (t : Tracker) (d : Option TrackIdx) (a : Nat) (i : Fin 8) :
    (t.advance d a)[i] = if i.val = 0 then ⟨d, a⟩ else (t[i.val - 1]).aged := by
  simp [Tracker.advance]

@[simp] theorem Slot.aged_dest (e : Slot) : e.aged.dest = e.dest := rfl
@[simp] theorem Slot.aged_cyc (e : Slot) : e.aged.cyc = e.cyc - 1 := rfl

@[simp] theorem Tracker.bubbles_zero (t : Tracker) : t.bubbles 0 = t := rfl
theorem Tracker.bubbles_succ (t : Tracker) (k : Nat) : t.bubbles (k + 1) = (t.advance none 0).bubbles k := rfl

/-- R63: "first match decides, even when it returns 0". -/
theorem Tracker.check_first (t : Tracker) (r : TrackIdx) (n : Nat) (i : Fin 8) (hi : t[i].dest = some r)
    (hmin : ∀ j : Fin 8, j < i → t[j].dest ≠ some r) : t.check r n = t[i].cyc - n := by
  have : t.toList.find? (fun e => e.dest = some r) = some t[i] := by
    rw [List.find?_eq_some_iff_getElem]
    refine ⟨by simpa using hi, i.val, by simp, by simp, fun j hj => ?_⟩
    have := hmin ⟨j, by omega⟩ hj
    simpa using this
  unfold Tracker.check
  rw [this]

/-- R63: "If none found, no stall." -/
theorem Tracker.check_absent (t : Tracker) (r : TrackIdx) (n : Nat) (h : ∀ i : Fin 8, t[i].dest ≠ some r) :
    t.check r n = 0 := by
  have : t.toList.find? (fun e => e.dest = some r) = none := by
    rw [List.find?_eq_none]
    intro e he
    obtain ⟨i, hi, rfl⟩ := List.getElem_of_mem he
    have := h ⟨i, by simpa using hi⟩
    simpa using this
  unfold Tracker.check
  rw [this]

/-- R63, as a case split: no slot holds the index, or one is the youngest that does. -/
theorem Tracker.holder_cases (t : Tracker) (r : TrackIdx) :
    (∀ i : Fin 8, t[i].dest ≠ some r) ∨
    ∃ i : Fin 8, t[i].dest = some r ∧ ∀ j : Fin 8, j < i → t[j].dest ≠ some r := by
  by_cases h : ∃ i : Fin 8, t[i].dest = some r
  · right
    obtain ⟨i, hi, hmin⟩ := WellFounded.has_min (wellFounded_lt (α := Fin 8)) {i | t[i].dest = some r} h
    exact ⟨i, hi, fun j hj hjr => hmin j hjr hj⟩
  · left
    exact fun i hi => h ⟨i, hi⟩

/-! ### The bound of R19(c) -/

theorem Tracker.empty_bounded : Tracker.empty.bounded := by
  intro i
  simp [Tracker.empty, Slot.bubble]

/-- `Advance` keeps the bound, if the new entry's count is at most 7, and at most 6 when it is not `ACC`'s. -/
theorem Tracker.advance_bounded {t : Tracker} {d : Option TrackIdx} {a : Nat} (h : t.bounded) (ha : a ≤ 7)
    (hd : d ≠ some .acc → a ≤ 6) : (t.advance d a).bounded := by
  intro i
  rw [Tracker.advance_slot]
  split
  · next h0 =>
    refine ⟨by simp only; omega, fun hne => ?_⟩
    have := hd hne
    simp only; omega
  · next h0 =>
    have hi := h ⟨i.val - 1, by omega⟩
    simp only [Fin.getElem_fin, Slot.aged_dest, Slot.aged_cyc] at hi ⊢
    refine ⟨by omega, fun hne => ?_⟩
    have := hi.2 hne
    omega

theorem Tracker.bubbles_bounded {t : Tracker} (k : Nat) (h : t.bounded) : (t.bubbles k).bounded := by
  induction k generalizing t with
  | zero => exact h
  | succ k ih => exact ih (Tracker.advance_bounded h (by omega) (by simp))

theorem Tracker.stalled_bounded {t : Tracker} (r : TrackIdx) (n : Nat) (h : t.bounded) : (t.stalled r n).bounded :=
  Tracker.bubbles_bounded _ h

/-- A check never asks for more than the bound leaves: 7 less the needed stage, and 6 less it for a general register. -/
theorem Tracker.check_le {t : Tracker} (r : TrackIdx) (n : Nat) (h : t.bounded) :
    t.check r n ≤ 7 - n ∧ (r ≠ .acc → t.check r n ≤ 6 - n) := by
  rcases t.holder_cases r with hno | ⟨i, hi, hmin⟩
  · rw [Tracker.check_absent t r n hno]; exact ⟨by omega, fun _ => by omega⟩
  · rw [Tracker.check_first t r n i hi hmin]
    refine ⟨by have := (h i).1; omega, fun hr => ?_⟩
    have := (h i).2 (by rw [hi]; simpa using hr)
    omega

end Sys2Proof.Machine
end

