-- ==== Sys2Proof/Laws/Step.lean ====
section
/-! SUPPORT. What the shared ends of the meanings answer, what fetch and the console answer, and what a step can do, each
said once (`40_step_and_tracker.md` R60, R61). -/

namespace Sys2Proof.Machine

variable (s : State)

/-! ### The shared ends, as next states -/

theorem State.raise_eq (f : Fatal) : s.raise f = .next (s.withFatal f) := rfl
theorem State.idle_eq : s.idle = .next s := rfl
theorem State.waitForConsole_eq : s.waitForConsole = .next s := rfl

theorem State.finishReg_eq (d : Reg) (v : Word) (a : Nat) :
    s.finishReg d v a = .next (((s.writeReg d v).retire (some (.gpr d)) a).advancePc) := rfl

theorem State.finishNone_eq : s.finishNone = .next ((s.retire none 0).advancePc) := rfl

theorem State.finishAcc_eq (h l : Word) :
    s.finishAcc h l = .next (((s.writeAcc h l).retire (some .acc) 7).advancePc) := rfl

theorem State.finishTransfer_eq (d : Option TrackIdx) (a : Nat) (t : Word) :
    s.finishTransfer d a t = .next (((s.retire d a).flush).setPc t) := rfl

theorem State.finishBranch_taken (imm : BitVec 16) :
    s.finishBranch true imm = .next (((s.retire none 0).flush).setPc (s.branchTarget imm)) := rfl

theorem State.finishBranch_untaken (imm : BitVec 16) :
    s.finishBranch false imm = .next ((s.retire none 0).advancePc) := rfl

/-! ### Fatal status, field by field -/

@[simp] theorem State.withFatal_status (f : Fatal) : (s.withFatal f).status = .faulted f := rfl
@[simp] theorem State.withFatal_pc (f : Fatal) : (s.withFatal f).pc = s.pc := rfl
@[simp] theorem State.withFatal_params (f : Fatal) : (s.withFatal f).params = s.params := rfl
@[simp] theorem State.withFatal_regs (f : Fatal) : (s.withFatal f).regs = s.regs := rfl
@[simp] theorem State.withFatal_reg (f : Fatal) (r : Reg) : (s.withFatal f).reg r = s.reg r := rfl
@[simp] theorem State.withFatal_hi (f : Fatal) : (s.withFatal f).hi = s.hi := rfl
@[simp] theorem State.withFatal_lo (f : Fatal) : (s.withFatal f).lo = s.lo := rfl
@[simp] theorem State.withFatal_dmem (f : Fatal) : (s.withFatal f).dmem = s.dmem := rfl
@[simp] theorem State.withFatal_tracker (f : Fatal) : (s.withFatal f).tracker = s.tracker := rfl
@[simp] theorem State.withFatal_instructions (f : Fatal) : (s.withFatal f).instructions = s.instructions := rfl
@[simp] theorem State.withFatal_bubbles (f : Fatal) : (s.withFatal f).bubbles = s.bubbles := rfl
@[simp] theorem State.withFatal_flushes (f : Fatal) : (s.withFatal f).flushes = s.flushes := rfl
@[simp] theorem State.withFatal_consoleIn (f : Fatal) : (s.withFatal f).consoleIn = s.consoleIn := rfl
@[simp] theorem State.withFatal_consoleOut (f : Fatal) : (s.withFatal f).consoleOut = s.consoleOut := rfl

/-! ### Fetch and the console -/

/-- R39: fetch answers exactly when the address is in the image, and then the word there. -/
theorem State.ifetch_eq_some_iff (w : Word) :
    s.ifetch = some w ↔ s.pc.toNat % 4 = 0 ∧ s.params.imemBase ≤ s.pc.toNat ∧
      s.params.imem[(s.pc.toNat - s.params.imemBase) / 4]? = some w := by
  unfold State.ifetch
  split
  · simp; omega
  · next h =>
    have h1 : s.pc.toNat % 4 = 0 := by omega
    have h2 : s.params.imemBase ≤ s.pc.toNat := by omega
    simp [h1, h2]

theorem State.consoleInInt_empty (h : s.consoleIn = []) : s.consoleInInt = none := by
  unfold State.consoleInInt; rw [h]

theorem State.consoleInInt_cons {v : Word} {rest : List Word} (h : s.consoleIn = v :: rest) :
    s.consoleInInt = some (v, { s with consoleIn := rest }) := by
  unfold State.consoleInInt; rw [h]

/-! ### The branch comparisons -/

theorem wordsEqual_iff (a b : Word) : wordsEqual a b = true ↔ a = b := by
  simp [wordsEqual]

/-! ### The loader -/

/-- The aligned pc is the multiple of 4 at or below the pc. -/
theorem alignPc_toNat (pc : Word) : (alignPc pc).toNat = pc.toNat / 4 * 4 := by
  have masked : ∀ i : Fin 32, 2 ≤ i.val → (0xFFFFFFFC#32).getLsbD i.val = true := by decide
  have shifted : alignPc pc = pc >>> 2 <<< 2 := by
    apply BitVec.eq_of_getLsbD_eq
    intro i hi
    have hcases : i = 0 ∨ i = 1 ∨ 2 ≤ i := by omega
    rcases hcases with rfl | rfl | h2
    · simp [alignPc]
    · simp [alignPc]
    · have hmask := masked ⟨i, hi⟩ h2
      simp only at hmask
      simp [alignPc, hmask, show 2 + (i - 2) = i by omega, show ¬ i < 2 by omega, hi]
  rw [shifted]
  simp only [BitVec.toNat_shiftLeft, BitVec.toNat_ushiftRight, Nat.shiftLeft_eq, Nat.shiftRight_eq_div_pow]
  have := pc.isLt
  omega

/-! ### One step -/

/-- What a step can do: nothing when the core is not running; the fetch range error; the unsupported-instruction error;
or the rule of the instruction the fetched word decodes to. -/
theorem step_cases {s t : State} (h : step s = .next t) :
    (s.status ≠ .running ∧ t = s) ∨
    (s.status = .running ∧ s.ifetch = none ∧ t = s.withFatal (.fetchRange s.pc)) ∨
    (∃ w why, s.status = .running ∧ s.ifetch = some w ∧ decode s.params.trap w = .unsupported why ∧
      t = s.withFatal (.unsupported s.pc w)) ∨
    (∃ w i, s.status = .running ∧ s.ifetch = some w ∧ decode s.params.trap w = .instr i ∧
      s.nextInstr = some i ∧ exec i s = .next t) := by
  unfold step at h
  cases hs : s.status with
  | halted => rw [hs] at h; cases h; exact .inl ⟨by simp, rfl⟩
  | faulted f => rw [hs] at h; cases h; exact .inl ⟨by simp, rfl⟩
  | running =>
    rw [hs] at h
    cases hf : s.ifetch with
    | none => rw [hf] at h; cases h; exact .inr (.inl ⟨rfl, rfl, rfl⟩)
    | some w =>
      rw [hf] at h
      cases hd : decode s.params.trap w with
      | unsupported why =>
        simp only [hd] at h; cases h; exact .inr (.inr (.inl ⟨w, why, rfl, rfl, hd, rfl⟩))
      | instr i =>
        simp only [hd] at h
        exact .inr (.inr (.inr ⟨w, i, rfl, rfl, hd, by simp [State.nextInstr, hf, hd, Decoded.toOption], h⟩))

/-- A running core whose fetched word decodes runs the rule of the instruction. -/
theorem step_of_decoded {s : State} {w : Word} {i : Instr} (hr : s.status = .running) (hf : s.ifetch = some w)
    (hd : decode s.params.trap w = .instr i) : step s = exec i s := by
  unfold step
  simp only [hr, hf, hd]

end Sys2Proof.Machine
end

