-- ==== Sys2Proof/Laws/Exec.lean ====
section
/-! SUPPORT. What `exec` answers, instruction by instruction: one equation for each instruction with a single outcome, one
for each outcome of the others, and for those one case split. -/

namespace Sys2Proof.Machine

/-! ### The instructions with one outcome -/

theorem execSll_eq (rd rt : Reg) (sh : Shamt) (s : State) :
    exec (.sll rd rt sh) s =
      .next ((((s.need rt).writeReg rd (shiftLeft (s.reg rt) sh)).retire (some (.gpr rd)) 4).advancePc) := rfl

theorem execSrl_eq (rd rt : Reg) (sh : Shamt) (s : State) :
    exec (.srl rd rt sh) s =
      .next ((((s.need rt).writeReg rd (shiftRightLogical (s.reg rt) sh)).retire (some (.gpr rd)) 4).advancePc) := rfl

theorem execSra_eq (rd rt : Reg) (sh : Shamt) (s : State) :
    exec (.sra rd rt sh) s =
      .next ((((s.need rt).writeReg rd (shiftRightArith (s.reg rt) sh)).retire (some (.gpr rd)) 4).advancePc) := rfl

theorem execAddu_eq (rd rs rt : Reg) (s : State) :
    exec (.addu rd rs rt) s =
      .next ((((s.need2 rs rt).writeReg rd (s.reg rs + s.reg rt)).retire (some (.gpr rd)) 4).advancePc) := rfl

theorem execSubu_eq (rd rs rt : Reg) (s : State) :
    exec (.subu rd rs rt) s =
      .next ((((s.need2 rs rt).writeReg rd (s.reg rs - s.reg rt)).retire (some (.gpr rd)) 4).advancePc) := rfl

theorem execSlt_eq (rd rs rt : Reg) (s : State) :
    exec (.slt rd rs rt) s =
      .next ((((s.need2 rs rt).writeReg rd (setLessThan (s.reg rs) (s.reg rt))).retire (some (.gpr rd)) 4).advancePc) := rfl

theorem execMult_eq (rs rt : Reg) (s : State) :
    exec (.mult rs rt) s =
      .next ((((s.need2 rs rt).writeAcc (productHigh (s.reg rs) (s.reg rt))
        (productLow (s.reg rs) (s.reg rt))).retire (some .acc) 7).advancePc) := rfl

theorem execMfhi_eq (rd : Reg) (s : State) :
    exec (.mfhi rd) s =
      .next ((((s.stall .acc 3).writeReg rd s.hi).retire (some (.gpr rd)) 4).advancePc) := rfl

theorem execMflo_eq (rd : Reg) (s : State) :
    exec (.mflo rd) s =
      .next ((((s.stall .acc 3).writeReg rd s.lo).retire (some (.gpr rd)) 4).advancePc) := rfl

theorem execAddiu_eq (rt rs : Reg) (imm : BitVec 16) (s : State) :
    exec (.addiu rt rs imm) s =
      .next ((((s.need rs).writeReg rt (s.reg rs + simm imm)).retire (some (.gpr rt)) 4).advancePc) := rfl

theorem execAndi_eq (rt rs : Reg) (imm : BitVec 16) (s : State) :
    exec (.andi rt rs imm) s =
      .next ((((s.need rs).writeReg rt (s.reg rs &&& uimm imm)).retire (some (.gpr rt)) 4).advancePc) := rfl

theorem execLui_eq (rt : Reg) (imm : BitVec 16) (s : State) :
    exec (.lui rt imm) s =
      .next (((s.writeReg rt (highImm imm)).retire (some (.gpr rt)) 4).advancePc) := rfl

theorem execJ_eq (target : BitVec 26) (s : State) :
    exec (.j target) s = .next (((s.retire none 0).flush).setPc (s.jumpTarget target)) := rfl

theorem execJal_eq (target : BitVec 26) (s : State) :
    exec (.jal target) s =
      .next ((((s.writeReg 31 s.nextPc).retire (some (.gpr 31)) 4).flush).setPc (s.jumpTarget target)) := rfl

theorem execJr_eq (rs : Reg) (s : State) :
    exec (.jr rs) s = .next ((((s.need rs).retire none 0).flush).setPc (s.reg rs)) := rfl

theorem execTrapNl_eq (s : State) :
    exec .trapNl s = .next ((s.consoleOutNewline.retire none 0).advancePc) := rfl

theorem execTrapPrint_eq (rs : Reg) (s : State) :
    exec (.trapPrint rs) s = .next ((((s.need rs).consoleOutInt (s.reg rs)).retire none 0).advancePc) := rfl

theorem execTrapHalt_eq (s : State) :
    exec .trapHalt s = .next ((s.halt.retire none 0).advancePc) := rfl

/-! ### The outcomes of the others -/

variable {rs rt : Reg} {imm : BitVec 16} {s : State}

theorem execDiv_zero (h : s.reg rt = 0) : exec (.div rs rt) s = .next (s.withFatal (.arithmetic s.pc)) := by
  simp only [exec, execDiv, if_pos h]; rfl

theorem execDiv_nonzero (h : s.reg rt ≠ 0) :
    exec (.div rs rt) s =
      .next ((((s.need2 rs rt).writeAcc (remainderWord (s.reg rs) (s.reg rt))
        (quotientWord (s.reg rs) (s.reg rt))).retire (some .acc) 7).advancePc) := by
  simp only [exec, execDiv, if_neg h]; rfl

theorem execLw_invalid {r : AccessReason} (h : s.badAddress (s.effectiveAddress rs imm) = some r) :
    exec (.lw rt rs imm) s = .next (s.withFatal (.dataAccess s.pc (s.effectiveAddress rs imm) r)) := by
  simp only [exec, execLw, State.loadWord_eq, h]; rfl

theorem execLw_valid (h : s.badAddress (s.effectiveAddress rs imm) = none) :
    exec (.lw rt rs imm) s =
      .next ((((s.need rs).writeReg rt (s.dmemWord (s.wordIndex (s.effectiveAddress rs imm)))).retire
        (some (.gpr rt)) 6).advancePc) := by
  simp only [exec, execLw, State.loadWord_eq, h]; rfl

theorem execSw_invalid {r : AccessReason} (h : s.badAddress (s.effectiveAddress rs imm) = some r) :
    exec (.sw rt rs imm) s = .next (s.withFatal (.dataAccess s.pc (s.effectiveAddress rs imm) r)) := by
  simp only [exec, execSw]
  rw [State.storeWord_invalid _ _ _ r (by simpa using h)]; rfl

theorem execSw_valid (h : s.badAddress (s.effectiveAddress rs imm) = none) :
    exec (.sw rt rs imm) s =
      .next ((({ ((s.need rs).stall (.gpr rt) 4) with
        dmem := s.dmem.write (s.wordIndex (s.effectiveAddress rs imm)) (s.reg rt) } : State).retire none 0).advancePc) := by
  simp only [exec, execSw]
  rw [State.storeWord_valid _ _ _ (by simpa using h)]; rfl

theorem wordsEqual_of_ne {a b : Word} (h : a ≠ b) : wordsEqual a b = false := by
  simpa [wordsEqual] using h

theorem execBeq_taken (h : s.reg rs = s.reg rt) :
    exec (.beq rs rt imm) s = .next ((((s.need2 rs rt).retire none 0).flush).setPc (s.branchTarget imm)) := by
  simp only [exec, execBeq, (wordsEqual_iff _ _).2 h]; rfl

theorem execBeq_untaken (h : s.reg rs ≠ s.reg rt) :
    exec (.beq rs rt imm) s = .next (((s.need2 rs rt).retire none 0).advancePc) := by
  simp only [exec, execBeq, wordsEqual_of_ne h]; rfl

theorem execBne_taken (h : s.reg rs ≠ s.reg rt) :
    exec (.bne rs rt imm) s = .next ((((s.need2 rs rt).retire none 0).flush).setPc (s.branchTarget imm)) := by
  simp only [exec, execBne, wordsEqual_of_ne h]; rfl

theorem execBne_untaken (h : s.reg rs = s.reg rt) :
    exec (.bne rs rt imm) s = .next (((s.need2 rs rt).retire none 0).advancePc) := by
  simp only [exec, execBne, (wordsEqual_iff _ _).2 h]; rfl

theorem execTrapRead_empty (h : s.consoleIn = []) : exec (.trapRead rt) s = .next s := by
  simp only [exec, execTrapRead, State.consoleInInt_empty _ h]; rfl

theorem execTrapRead_answered {v : Word} {rest : List Word} (h : s.consoleIn = v :: rest) :
    exec (.trapRead rt) s =
      .next (((({ s with consoleIn := rest } : State).writeReg rt v).retire (some (.gpr rt)) 4).advancePc) := by
  simp only [exec, execTrapRead, State.consoleInInt_cons _ h]; rfl

/-! ### The others, as one case split -/

variable {t : State}

/-- LW: the data access error, or the loaded word written and the instruction retired. -/
theorem execLw_cases (h : exec (.lw rt rs imm) s = .next t) :
    (∃ r, s.badAddress (s.effectiveAddress rs imm) = some r ∧
      t = s.withFatal (.dataAccess s.pc (s.effectiveAddress rs imm) r)) ∨
    (s.badAddress (s.effectiveAddress rs imm) = none ∧
      t = ((((s.need rs).writeReg rt (s.dmemWord (s.wordIndex (s.effectiveAddress rs imm)))).retire
        (some (.gpr rt)) 6).advancePc)) := by
  cases hb : s.badAddress (s.effectiveAddress rs imm) with
  | none => rw [execLw_valid hb] at h; cases h; exact .inr ⟨rfl, rfl⟩
  | some r => rw [execLw_invalid hb] at h; cases h; exact .inl ⟨r, rfl, rfl⟩

/-- SW: the data access error, or the word stored and the instruction retired. -/
theorem execSw_cases (h : exec (.sw rt rs imm) s = .next t) :
    (∃ r, s.badAddress (s.effectiveAddress rs imm) = some r ∧
      t = s.withFatal (.dataAccess s.pc (s.effectiveAddress rs imm) r)) ∨
    (s.badAddress (s.effectiveAddress rs imm) = none ∧
      t = (({ ((s.need rs).stall (.gpr rt) 4) with
        dmem := s.dmem.write (s.wordIndex (s.effectiveAddress rs imm)) (s.reg rt) } : State).retire none 0).advancePc) := by
  cases hb : s.badAddress (s.effectiveAddress rs imm) with
  | none => rw [execSw_valid hb] at h; cases h; exact .inr ⟨rfl, rfl⟩
  | some r => rw [execSw_invalid hb] at h; cases h; exact .inl ⟨r, rfl, rfl⟩

/-- TRAP.READ: the wait, or the console's answer taken and written. -/
theorem execTrapRead_cases (h : exec (.trapRead rt) s = .next t) :
    (s.consoleIn = [] ∧ t = s) ∨
    (∃ v rest, s.consoleIn = v :: rest ∧
      t = ((({ s with consoleIn := rest } : State).writeReg rt v).retire (some (.gpr rt)) 4).advancePc) := by
  cases hc : s.consoleIn with
  | nil => rw [execTrapRead_empty hc] at h; cases h; exact .inl ⟨rfl, rfl⟩
  | cons v rest => rw [execTrapRead_answered hc] at h; cases h; exact .inr ⟨v, rest, rfl, rfl⟩

/-- DIV: the arithmetic error, or both accumulators written. -/
theorem execDiv_cases (h : exec (.div rs rt) s = .next t) :
    (s.reg rt = 0 ∧ t = s.withFatal (.arithmetic s.pc)) ∨
    (s.reg rt ≠ 0 ∧
      t = ((((s.need2 rs rt).writeAcc (remainderWord (s.reg rs) (s.reg rt))
        (quotientWord (s.reg rs) (s.reg rt))).retire (some .acc) 7).advancePc)) := by
  by_cases hz : s.reg rt = 0
  · rw [execDiv_zero hz] at h; cases h; exact .inl ⟨hz, rfl⟩
  · rw [execDiv_nonzero hz] at h; cases h; exact .inr ⟨hz, rfl⟩

/-- BEQ: taken on equality, else untaken. -/
theorem execBeq_cases (h : exec (.beq rs rt imm) s = .next t) :
    (s.reg rs = s.reg rt ∧ t = (((s.need2 rs rt).retire none 0).flush).setPc (s.branchTarget imm)) ∨
    (s.reg rs ≠ s.reg rt ∧ t = ((s.need2 rs rt).retire none 0).advancePc) := by
  by_cases he : s.reg rs = s.reg rt
  · rw [execBeq_taken he] at h; cases h; exact .inl ⟨he, rfl⟩
  · rw [execBeq_untaken he] at h; cases h; exact .inr ⟨he, rfl⟩

/-- BNE: taken on inequality, else untaken. -/
theorem execBne_cases (h : exec (.bne rs rt imm) s = .next t) :
    (s.reg rs ≠ s.reg rt ∧ t = (((s.need2 rs rt).retire none 0).flush).setPc (s.branchTarget imm)) ∨
    (s.reg rs = s.reg rt ∧ t = ((s.need2 rs rt).retire none 0).advancePc) := by
  by_cases he : s.reg rs = s.reg rt
  · rw [execBne_untaken he] at h; cases h; exact .inr ⟨he, rfl⟩
  · rw [execBne_taken he] at h; cases h; exact .inl ⟨he, rfl⟩

/-! ### What a register write shows -/

/-- A state whose registers are those of a write has written that register and no other (R11, R13). -/
theorem State.wroteReg_of_regs {d : Reg} {v : Word} (h : t.regs = (s.writeReg d v).regs) : s.wroteReg t d v := by
  have hr : ∀ r, t.reg r = (s.writeReg d v).reg r := fun r => by unfold State.reg; rw [h]
  exact ⟨by rw [hr, State.writeReg_reg_same], fun r hne => by rw [hr, State.writeReg_reg_other _ _ _ _ hne]⟩

/-- A state with the same registers reads the same registers. -/
theorem State.sameRegs_of_regs (h : t.regs = s.regs) : s.sameRegs t := fun r => by unfold State.reg; rw [h]

end Sys2Proof.Machine
end

