-- ==== Sys2Proof/Laws/PerInstr.lean ====
section
/-! SUPPORT. Per-instruction laws. Family `RowSelects`: the word the encoder writes for an instruction selects that
instruction's own row of the opcode table (`30_encoding.md` R50), under every trap encoding. -/

namespace Sys2Proof.Laws.RowSelects

/-- The encoded word selects the instruction's row. -/
def Statement (i : Instr) : Prop := ∀ te : TrapEncoding, (i.row te).selects (encode te i)

/-- A word built in format R selects the register-format row of its function code. -/
theorem of_registerWord (name : String) (rs rt rd : Reg) (h : Shamt) (fn : BitVec 6) :
    (registerRow name fn).selects (registerWord rs rt rd h fn) := by
  rw [registerRow_selects, fields_registerWord]
  exact ⟨rfl, rfl⟩

/-- A word built in format I selects the row of its primary opcode. -/
theorem of_immediateWord (name : String) (op : BitVec 6) (rs rt : Reg) (imm : BitVec 16) :
    (primaryRow name op).selects (immediateWord op rs rt imm) := by
  rw [primaryRow_selects]
  exact (fields_immediateWord op rs rt imm).1

/-- A word built in format J selects the row of its primary opcode. -/
theorem of_jumpWord (name : String) (op : BitVec 6) (target : BitVec 26) :
    (primaryRow name op).selects (jumpWord op target) := by
  rw [primaryRow_selects]
  exact (fields_jumpWord op target).1

/-- A word built in format T selects the trap row of its code. -/
theorem of_trapWord (name : String) (op : BitVec 6) (rs rt : Reg) (code : BitVec 4) :
    (trapRow name op code).selects (trapWord op rs rt code) := by
  rw [trapRow_selects]
  exact ⟨(fields_trapWord op rs rt code).1, (fields_trapWord op rs rt code).2.2.2⟩

theorem sll (rd rt : Reg) (sh : Shamt) : Statement (.sll rd rt sh) := fun _ => of_registerWord _ _ _ _ _ _
theorem srl (rd rt : Reg) (sh : Shamt) : Statement (.srl rd rt sh) := fun _ => of_registerWord _ _ _ _ _ _
theorem sra (rd rt : Reg) (sh : Shamt) : Statement (.sra rd rt sh) := fun _ => of_registerWord _ _ _ _ _ _
theorem jr (rs : Reg) : Statement (.jr rs) := fun _ => of_registerWord _ _ _ _ _ _
theorem mfhi (rd : Reg) : Statement (.mfhi rd) := fun _ => of_registerWord _ _ _ _ _ _
theorem mflo (rd : Reg) : Statement (.mflo rd) := fun _ => of_registerWord _ _ _ _ _ _
theorem mult (rs rt : Reg) : Statement (.mult rs rt) := fun _ => of_registerWord _ _ _ _ _ _
theorem div (rs rt : Reg) : Statement (.div rs rt) := fun _ => of_registerWord _ _ _ _ _ _
theorem addu (rd rs rt : Reg) : Statement (.addu rd rs rt) := fun _ => of_registerWord _ _ _ _ _ _
theorem subu (rd rs rt : Reg) : Statement (.subu rd rs rt) := fun _ => of_registerWord _ _ _ _ _ _
theorem slt (rd rs rt : Reg) : Statement (.slt rd rs rt) := fun _ => of_registerWord _ _ _ _ _ _
theorem j (target : BitVec 26) : Statement (.j target) := fun _ => of_jumpWord _ _ _
theorem jal (target : BitVec 26) : Statement (.jal target) := fun _ => of_jumpWord _ _ _
theorem beq (rs rt : Reg) (imm : BitVec 16) : Statement (.beq rs rt imm) := fun _ => of_immediateWord _ _ _ _ _
theorem bne (rs rt : Reg) (imm : BitVec 16) : Statement (.bne rs rt imm) := fun _ => of_immediateWord _ _ _ _ _
theorem addiu (rt rs : Reg) (imm : BitVec 16) : Statement (.addiu rt rs imm) := fun _ => of_immediateWord _ _ _ _ _
theorem andi (rt rs : Reg) (imm : BitVec 16) : Statement (.andi rt rs imm) := fun _ => of_immediateWord _ _ _ _ _
theorem lui (rt : Reg) (imm : BitVec 16) : Statement (.lui rt imm) := fun _ => of_immediateWord _ _ _ _ _
theorem lw (rt rs : Reg) (imm : BitVec 16) : Statement (.lw rt rs imm) := fun _ => of_immediateWord _ _ _ _ _
theorem sw (rt rs : Reg) (imm : BitVec 16) : Statement (.sw rt rs imm) := fun _ => of_immediateWord _ _ _ _ _
theorem trapNl : Statement .trapNl := fun _ => of_trapWord _ _ _ _ _
theorem trapPrint (rs : Reg) : Statement (.trapPrint rs) := fun _ => of_trapWord _ _ _ _ _
theorem trapRead (rt : Reg) : Statement (.trapRead rt) := fun _ => of_trapWord _ _ _ _ _
theorem trapHalt : Statement .trapHalt := fun _ => of_trapWord _ _ _ _ _

/-- Every instruction's word selects its own row. -/
theorem all (i : Instr) : Statement i := by
  cases i
  case sll rd rt sh => exact sll rd rt sh
  case srl rd rt sh => exact srl rd rt sh
  case sra rd rt sh => exact sra rd rt sh
  case jr rs => exact jr rs
  case mfhi rd => exact mfhi rd
  case mflo rd => exact mflo rd
  case mult rs rt => exact mult rs rt
  case div rs rt => exact div rs rt
  case addu rd rs rt => exact addu rd rs rt
  case subu rd rs rt => exact subu rd rs rt
  case slt rd rs rt => exact slt rd rs rt
  case j target => exact j target
  case jal target => exact jal target
  case beq rs rt imm => exact beq rs rt imm
  case bne rs rt imm => exact bne rs rt imm
  case addiu rt rs imm => exact addiu rt rs imm
  case andi rt rs imm => exact andi rt rs imm
  case lui rt imm => exact lui rt imm
  case lw rt rs imm => exact lw rt rs imm
  case sw rt rs imm => exact sw rt rs imm
  case trapNl => exact trapNl
  case trapPrint rs => exact trapPrint rs
  case trapRead rt => exact trapRead rt
  case trapHalt => exact trapHalt

end Sys2Proof.Laws.RowSelects
end

