-- ==== Sys2Proof/Laws/Words.lean ====
section
/-! SUPPORT. Data memory written out as the array of R16: the sparse list and the array determine each other, a load is an
element of the array, a store sets one, and `DMEM_INIT` given as words is read back (`20_memory.md` R33, R34, R36, R40). -/

namespace Sys2Proof.Machine

/-! ### A memory made of words -/

/-- Words listed keep the canonical form, and are listed at their own indices only. -/
theorem Memory.ofWords_held (k : Nat) (ws : List Word) :
    (Memory.ofWords k ws).wf ∧ ∀ c ∈ Memory.ofWords k ws, k ≤ c.1 ∧ c.1 < k + ws.length := by
  induction ws generalizing k with
  | nil => exact ⟨⟨.nil, by simp [Memory.ofWords]⟩, by simp [Memory.ofWords]⟩
  | cons w rest ih =>
    obtain ⟨hw, hk⟩ := ih (k + 1)
    refine ⟨Memory.put_wf hw fun c hc => (hk c hc).1, fun c hc => ?_⟩
    rw [List.length_cons]
    rcases Memory.mem_put hc with ⟨rfl, -⟩ | hc
    · simp only; omega
    · have := hk c hc; omega

theorem Memory.read_ofWords (k : Nat) (ws : List Word) (j : Nat) (h : j < ws.length) :
    (Memory.ofWords k ws).read (k + j) = ws[j] := by
  induction ws generalizing k j with
  | nil => simp at h
  | cons w rest ih =>
    rw [Memory.ofWords, Memory.read_put _ _ _ _ fun c hc => ((Memory.ofWords_held (k + 1) rest).2 c hc).1]
    cases j with
    | zero => simp
    | succ j =>
      rw [if_neg (by omega), show k + (j + 1) = k + 1 + j by omega, ih _ j (by simpa using h)]
      rfl

/-! ### The data memory of a state -/

@[simp] theorem State.length_dmemArray (s : State) : s.dmemArray.length = s.params.dmemSize / 4 := by
  simp [State.dmemArray]

/-- Element `k` of the array is word `k` (R16). -/
theorem State.dmemArray_getElem? (s : State) (k : Nat) (h : k < s.params.dmemSize / 4) :
    s.dmemArray[k]? = some (s.dmemWord k) := by
  simp [State.dmemArray, h]

/-- The list holds the array and nothing else: equal arrays are equal memories (R36). -/
theorem State.dmem_eq_of_dmemArray {s t : State} (hs : s.memHeld) (ht : t.memHeld) (hst : t.params = s.params)
    (h : t.dmemArray = s.dmemArray) : t.dmem = s.dmem := by
  refine Memory.ext_of_read ht.1 hs.1 fun k => ?_
  by_cases hk : k < s.params.dmemSize / 4
  · have hword := congrArg (·[k]?) h
    simp only [t.dmemArray_getElem? k (hst ▸ hk), s.dmemArray_getElem? k hk] at hword
    exact Option.some.inj hword
  · rw [Memory.read_unlisted t.dmem k fun c hc => by have := ht.2 c hc; rw [hst] at this; omega,
      Memory.read_unlisted s.dmem k fun c hc => by have := hs.2 c hc; omega]

/-- `LoadWord` in the array: "the result is `DMEM[k]`" (R33). -/
theorem State.loadWord_dmemArray (s : State) (ea : Word) (hp : s.params.dmemFits) (h : s.validAddress ea) :
    ∃ w, s.dmemArray[s.wordIndex ea]? = some w ∧ s.loadWord ea = .ok w := by
  have hb := (s.badAddress_none_iff ea).2 h
  exact ⟨_, s.dmemArray_getElem? _ (s.wordIndex_valid ea hp hb).1, s.loadWord_valid ea hb⟩

/-- `StoreWord` in the array: "`DMEM[k] <- v`", and no other element (R34). -/
theorem State.storeWord_dmemArray (s : State) (v ea : Word) (hw : s.dmem.wf) (h : s.validAddress ea) :
    ∃ t, s.storeWord v ea = .ok t ∧ t.dmemArray = s.dmemArray.set (s.wordIndex ea) v := by
  refine ⟨_, s.storeWord_valid v ea ((s.badAddress_none_iff ea).2 h), ?_⟩
  refine List.ext_getElem (by simp) fun k h1 h2 => ?_
  rw [List.getElem_set]
  simp [State.dmemArray, State.dmemWord_write s _ _ _ hw]

/-- The array at the start of a run whose `DMEM_INIT` is given as words (R26, R40). -/
theorem State.start_withData_dmemArray (p : Params) (ws : List Word) (h : ws.length = p.dmemSize / 4) :
    (State.start (withData p ws)).dmemArray = ws := by
  refine List.ext_getElem (by simp [State.start, withData, h]) fun k h1 h2 => ?_
  have := Memory.read_ofWords 0 ws k h2
  simpa [State.dmemArray, State.dmemWord, State.start, withData] using this

end Sys2Proof.Machine
end

