-- ==== Sys2Proof/Tests/Slice0.lean ====
section
/-! SUPPORT. Tests: the well-formedness smoke tests, a word of every constructor written out from the spec's encodings,
one-step vectors of `95_test_vectors.md` (named T-... in the comments), and a witness of the hypotheses of every
statement that has some. Every expected value is the spec's. -/

namespace Sys2Proof.Tests

open Sys2Proof Sys2Proof.Machine

/-! ### Helpers -/

/-- The reference configuration with one word at the start address (part 2 of `95_test_vectors.md`). -/
def ready (w : Nat) (preset : State → State) : State := preset (State.reset.withFetchWord 32 w)

/-- Whether an outcome is a next state with a property. -/
def gives (o : Host.Outcome State Fault Refusal) (f : State → Bool) : Bool :=
  match o with
  | .next t => f t
  | .fault _ => false
  | .refused _ => false

/-- One step on a word with presets, and a property of the state it gives. -/
def stepGives (w : Nat) (preset : State → State) (f : State → Bool) : Bool := gives (step (ready w preset)) f

/-- The word of data memory at a byte address preset. -/
def withWord (a : Word) (w : Word) (s : State) : State := { s with dmem := s.dmem.write (s.wordIndex a) w }

/-- The tracker whose youngest slots are these and whose other slots are empty. -/
def youngest (e : List Slot) : Tracker := Vector.ofFn fun i => e[i.val]?.getD Slot.bubble

/-- The first word of the retired step: the counted instruction, no bubble, no flush, `pc + 4`. -/
def plain (t : State) : Bool :=
  t.pc == 0x00400004 && t.instructions == 1 && t.bubbles == 0 && t.flushes == 0 && t.status == .running

/-! ### Well-formedness: each check refuses an ill-formed term -/

theorem test_reference_wf : Params.reference.wf := by decide
theorem test_wf_refuses_equal_trap_codes : ¬ { TrapEncoding.standard with halt := 0x5 : TrapEncoding }.codesDistinct := by
  decide
theorem test_wf_refuses_used_trap_opcode : ¬ { TrapEncoding.standard with opcode := 0x23 : TrapEncoding }.opcodeFree := by
  decide
theorem test_wf_refuses_dmem_base : ¬ { Params.reference with dmemBase := 0x10000002 : Params }.dmemFits := by decide
theorem test_wf_refuses_dmem_size : ¬ { Params.reference with dmemSize := 6 : Params }.dmemFits := by decide
theorem test_wf_refuses_dmem_empty : ¬ { Params.reference with dmemSize := 0 : Params }.dmemFits := by decide
theorem test_wf_refuses_dmem_end : ¬ { Params.reference with dmemBase := 0xFFFFFFFC : Params }.dmemFits := by decide
theorem test_wf_refuses_imem_base : ¬ { Params.reference with imemBase := 0x00400001 : Params }.imemFits := by decide
theorem test_wf_refuses_imem_end :
    ¬ { Params.reference with imemBase := 0xFFFFFFFC, imem := [0, 0] : Params }.imemFits := by decide
theorem test_wf_refuses_memory_order : ¬ Memory.wf [(5, 1), (4, 1)] := by decide
theorem test_wf_refuses_memory_repeat : ¬ Memory.wf [(4, 1), (4, 2)] := by decide
theorem test_wf_refuses_memory_blank : ¬ Memory.wf [(4, 0)] := by decide
theorem test_wf_refuses_dmem_init_outside : ¬ Params.reference.holds [(0x4000, 1)] := by decide

/-! ### Decoding: a word of every constructor, from the fields of R47 and the numbers of R50 -/

theorem test_decode_sll : decodeTableWord 32 0b000000_00000_00100_00101_00010_000000 = some (.sll 5 4 2) := by decide
theorem test_decode_srl : decodeTableWord 32 0b000000_00000_00100_00101_11111_000010 = some (.srl 5 4 31) := by decide
theorem test_decode_sra : decodeTableWord 32 0b000000_00000_00100_00101_00100_000011 = some (.sra 5 4 4) := by decide
theorem test_decode_jr : decodeTableWord 32 0b000000_11111_00000_00000_00000_001000 = some (.jr 31) := by decide
theorem test_decode_mfhi : decodeTableWord 32 0b000000_00000_00000_00100_00000_010000 = some (.mfhi 4) := by decide
theorem test_decode_mflo : decodeTableWord 32 0b000000_00000_00000_00100_00000_010010 = some (.mflo 4) := by decide
theorem test_decode_mult : decodeTableWord 32 0b000000_00010_00011_00000_00000_011000 = some (.mult 2 3) := by decide
theorem test_decode_div : decodeTableWord 32 0b000000_00010_00011_00000_00000_011010 = some (.div 2 3) := by decide
theorem test_decode_addu : decodeTableWord 32 0b000000_00010_00011_00100_00000_100001 = some (.addu 4 2 3) := by decide
theorem test_decode_subu : decodeTableWord 32 0b000000_00010_00011_00100_00000_100011 = some (.subu 4 2 3) := by decide
theorem test_decode_slt : decodeTableWord 32 0b000000_00010_00011_00100_00000_101010 = some (.slt 4 2 3) := by decide
theorem test_decode_j : decodeTableWord 32 0b000010_00000100000000000000001000 = some (.j 0x0100008) := by decide
theorem test_decode_jal : decodeTableWord 32 0b000011_00000100000000000000001000 = some (.jal 0x0100008) := by decide
theorem test_decode_beq : decodeTableWord 32 0b000100_00010_00011_0000000000000011 = some (.beq 2 3 3) := by decide
theorem test_decode_bne : decodeTableWord 32 0b000101_01000_00000_1111111111111101 = some (.bne 8 0 0xFFFD) := by decide
theorem test_decode_addiu : decodeTableWord 32 0b001001_00000_00010_0000000000000101 = some (.addiu 2 0 5) := by decide
theorem test_decode_andi : decodeTableWord 32 0b001100_00010_00011_0000000011111111 = some (.andi 3 2 0xFF) := by decide
theorem test_decode_lui : decodeTableWord 32 0b001111_00000_00101_0001000000000000 = some (.lui 5 0x1000) := by decide
theorem test_decode_lw : decodeTableWord 32 0b100011_11100_01000_0000000000000100 = some (.lw 8 28 4) := by decide
theorem test_decode_sw : decodeTableWord 32 0b101011_11100_00100_0000000000000010 = some (.sw 4 28 2) := by decide
theorem test_decode_trap_nl : decodeTableWord 32 0b011010_00000_00000_000000000000_0000 = some .trapNl := by decide
theorem test_decode_trap_print : decodeTableWord 32 0b011010_00100_00000_000000000000_0001 = some (.trapPrint 4) := by
  decide
theorem test_decode_trap_read : decodeTableWord 32 0b011010_00000_00010_000000000000_0101 = some (.trapRead 2) := by
  decide
theorem test_decode_trap_halt : decodeTableWord 32 0b011010_00000_00000_000000000000_1010 = some .trapHalt := by decide
/-- T-DEC11, T-DEC12: ignored bits set. -/
theorem test_decode_ignores_unused_fields :
    decodeTableWord 32 0x00A419E1 = some (.addu 3 5 4) ∧ decodeTableWord 32 0x6800FFF1 = some (.trapPrint 0) := by decide
/-- T-DEC13 to T-DEC17: no row. -/
theorem test_decode_refuses_by_name :
    decode TrapEncoding.standard 0x0000000C = .unsupported (.functionCode 0x0C) ∧
    decode TrapEncoding.standard 0x34000000 = .unsupported (.opcode 0x0D) ∧
    decode TrapEncoding.standard 0x68000002 = .unsupported (.trapCode 0x2) := by decide
/-- T-DEC5, every field. -/
theorem test_fields :
    fields 0x1500FFFD = ⟨0x05, 8, 0, 31, 31, 0x3D, 0xFFFD, 0x100FFFD, 0xD⟩ := by decide
/-- The immediates under T-DEC10. -/
theorem test_immediates :
    uimm 0xFFFD = 0x0000FFFD ∧ simm 0xFFFD = 0xFFFFFFFD ∧ branchOffset 0xFFFD = 0xFFFFFFF4 ∧
    simm 0x8000 = 0xFFFF8000 ∧ joff 0x0100008 = 0x0400020 ∧ joff 0x3FFFFFF = 0xFFFFFFC := by decide

/-! ### One step -/

/-- T-ALU1. -/
theorem test_sll : stepGives 0x00042880 (·.writeReg 4 0xC0000003) (fun t => t.reg 5 == 0x0000000C && plain t) := by decide
/-- T-ALU3. -/
theorem test_srl : stepGives 0x00042902 (·.writeReg 4 0x80000010) (fun t => t.reg 5 == 0x08000001 && plain t) := by decide
/-- T-ALU5. -/
theorem test_sra : stepGives 0x00042903 (·.writeReg 4 0x80000010) (fun t => t.reg 5 == 0xF8000001 && plain t) := by decide
/-- T-ALU9. -/
theorem test_addu : stepGives 0x00432021 (fun s => (s.writeReg 2 0x7FFFFFFF).writeReg 3 1)
    (fun t => t.reg 4 == 0x80000000 && plain t && t.tracker == youngest [⟨some (.gpr 4), 4⟩]) := by decide
/-- T-ALU10. -/
theorem test_addu_register_zero : stepGives 0x00430021 (fun s => (s.writeReg 2 5).writeReg 3 7)
    (fun t => t.reg 0 == 0 && plain t && t.tracker == youngest [⟨some (.gpr 0), 4⟩]) := by decide
/-- T-ALU13. -/
theorem test_subu : stepGives 0x00432023 (fun s => (s.writeReg 2 0x80000000).writeReg 3 1)
    (fun t => t.reg 4 == 0x7FFFFFFF && plain t) := by decide
/-- T-ALU15, T-ALU17. -/
theorem test_slt : stepGives 0x0043202A (fun s => (s.writeReg 2 0x7FFFFFFF).writeReg 3 0x80000000)
    (fun t => t.reg 4 == 0) ∧
    stepGives 0x0043202A (fun s => s.writeReg 2 0xFFFFFFFF) (fun t => t.reg 4 == 1 && plain t) := by decide
/-- T-MD4, T-MD6. -/
theorem test_mult : stepGives 0x00430018 (fun s => (s.writeReg 2 0xFFFFFFFF).writeReg 3 1)
    (fun t => t.hi == 0xFFFFFFFF && t.lo == 0xFFFFFFFF && t.tracker == youngest [⟨some .acc, 7⟩]) ∧
    stepGives 0x00430018 (fun s => (s.writeReg 2 0x80000000).writeReg 3 0x7FFFFFFF)
    (fun t => t.hi == 0xC0000000 && t.lo == 0x80000000 && plain t) := by decide
/-- T-MD9, T-MD10, T-MD15. -/
theorem test_div : stepGives 0x0043001A (fun s => (s.writeReg 2 0xFFFFFFF9).writeReg 3 2)
    (fun t => t.hi == 0xFFFFFFFF && t.lo == 0xFFFFFFFD) ∧
    stepGives 0x0043001A (fun s => (s.writeReg 2 7).writeReg 3 0xFFFFFFFE)
    (fun t => t.hi == 1 && t.lo == 0xFFFFFFFD && plain t) ∧
    stepGives 0x0043001A (fun s => (s.writeReg 2 0x80000000).writeReg 3 0xFFFFFFFF)
    (fun t => t.hi == 0 && t.lo == 0x80000000) := by decide
/-- T-MD16. -/
theorem test_div_by_zero : stepGives 0x0043001A (·.writeReg 2 9)
    (fun t => t.status == .faulted (.arithmetic 0x00400000) && t.pc == 0x00400000 && t.instructions == 0) := by decide
/-- T-MD18. -/
theorem test_mfhi : stepGives 0x00002010 (·.writeAcc 0xDEADBEEF 0x12345678)
    (fun t => t.reg 4 == 0xDEADBEEF && t.lo == 0x12345678 && plain t) := by decide
/-- T-MD19. -/
theorem test_mflo : stepGives 0x00002012 (·.writeAcc 0xDEADBEEF 0x12345678)
    (fun t => t.reg 4 == 0x12345678 && t.hi == 0xDEADBEEF && plain t) := by decide
/-- T-IMM4. -/
theorem test_addiu : stepGives 0x24038000 id (fun t => t.reg 3 == 0xFFFF8000 && plain t) := by decide
/-- T-IMM7. -/
theorem test_andi : stepGives 0x30438000 (·.writeReg 2 0xFFFFFFFF) (fun t => t.reg 3 == 0x00008000 && plain t) := by
  decide
/-- T-IMM9. -/
theorem test_lui : stepGives 0x3C05FFFF (·.writeReg 5 0x12345678) (fun t => t.reg 5 == 0xFFFF0000 && plain t) := by
  decide
/-- T-LS2, T-LS13. -/
theorem test_lw : stepGives 0x8FA8FFFC (withWord 0x1000FFFC 0xCAFE0001) (fun t => t.reg 8 == 0xCAFE0001) ∧
    stepGives 0x8F9C0000 (withWord 0x10008000 0x77) (fun t => t.reg 28 == 0x77 && plain t) := by decide
/-- T-LS4, T-LS7, T-LS9, T-LS14. -/
theorem test_lw_faults :
    stepGives 0x8F880002 id (fun t => t.status == .faulted (.dataAccess 0x00400000 0x10008002 .unaligned)) ∧
    stepGives 0x8FA80000 id (fun t => t.status == .faulted (.dataAccess 0x00400000 0x10010000 .outOfBounds)) ∧
    stepGives 0x8C08FFFC id (fun t => t.status == .faulted (.dataAccess 0x00400000 0xFFFFFFFC .outOfBounds)) ∧
    stepGives 0x8C080002 id (fun t => t.status == .faulted (.dataAccess 0x00400000 0x00000002 .unaligned)) := by decide
/-- T-LS11, T-LS12. -/
theorem test_sw :
    stepGives 0xAF840000 (·.writeReg 4 12)
      (fun t => t.dmem == [(0x2000, 0xC)] && t.tracker == Tracker.empty && plain t) ∧
    stepGives 0xAF800008 (withWord 0x10008008 0x55) (fun t => t.dmem == []) := by decide
/-- T-LS10. -/
theorem test_sw_faults : stepGives 0xAF840002 (·.writeReg 4 12)
    (fun t => t.status == .faulted (.dataAccess 0x00400000 0x10008002 .unaligned) && t.dmem == []) := by decide
/-- T-CT1. -/
theorem test_j : stepGives 0x08100008 id
    (fun t => t.pc == 0x00400020 && t.flushes == 2 && t.tracker == Tracker.empty && t.instructions == 1) := by decide
/-- T-CT3. -/
theorem test_jal : stepGives 0x0C100008 id
    (fun t => t.pc == 0x00400020 && t.reg 31 == 0x00400004 && t.flushes == 2 &&
      t.tracker == youngest [Slot.bubble, Slot.bubble, ⟨some (.gpr 31), 2⟩]) := by decide
/-- T-CT5. -/
theorem test_jr : stepGives 0x00A00008 (·.writeReg 5 0x00400002)
    (fun t => t.pc == 0x00400002 && t.flushes == 2 &&
      gives (step t) (fun u => u.status == .faulted (.fetchRange 0x00400002))) := by decide
/-- T-CT7, T-CT12. -/
theorem test_beq : stepGives 0x10430003 (fun s => (s.writeReg 2 9).writeReg 3 8) plain ∧
    stepGives 0x10008000 id (fun t => t.pc == 0x003E0004 && t.flushes == 2) := by decide
/-- T-CT10, T-CT11. -/
theorem test_bne : stepGives 0x14A0FFFD (·.writeReg 5 2) (fun t => t.pc == 0x003FFFF8 && t.flushes == 2) ∧
    stepGives 0x14A50007 (·.writeReg 5 2) plain := by decide
/-- T-TR1, T-TR2. -/
theorem test_trap_print :
    stepGives 0x68800001 (·.writeReg 4 0xFFFFFFFF) (fun t => t.consoleOut == [.int (-1)] && plain t) ∧
    stepGives 0x68800001 (·.writeReg 4 0x80000000) (fun t => t.consoleOut == [.int (-2147483648)]) := by decide
/-- T-TR5. -/
theorem test_trap_nl : stepGives 0x68000000 id (fun t => t.consoleOut == [.newline] && plain t) := by decide
/-- T-TR3, T-TR4, T-TR7. -/
theorem test_trap_read :
    stepGives 0x68020005 (·.supplyInput [0xFFFFFFF9])
      (fun t => t.reg 2 == 0xFFFFFFF9 && t.consoleIn == [] && t.tracker == youngest [⟨some (.gpr 2), 4⟩] && plain t) ∧
    stepGives 0x68000005 (·.supplyInput [5, 6]) (fun t => t.reg 0 == 0 && t.consoleIn == [6]) ∧
    stepGives 0x68020005 id (fun t => t == ready 0x68020005 id) := by decide
/-- T-TR6. -/
theorem test_trap_halt : stepGives 0x6800000A id
    (fun t => t.status == .halted && t.pc == 0x00400004 && t.instructions == 1 && t.totalCycles == 8) := by decide
/-- T-DEC13. -/
theorem test_unsupported : stepGives 0x0000000C id
    (fun t => t.status == .faulted (.unsupported 0x00400000 0x0000000C) && t.instructions == 0) := by decide
/-- T-FT3: the empty image, as `State.reset` has it (log 4). -/
theorem test_empty_image : gives (step State.reset)
    (fun t => t.status == .faulted (.fetchRange 0x00400000) && t.totalCycles == 7) := by decide
/-- T-FT9. -/
theorem test_halted_idle : gives (step State.reset.halt) (fun t => t == State.reset.halt) := by decide

/-! ### The tracker -/

/-- T-TK1 to T-TK7. -/
theorem test_tracker_operations :
    let t := (Tracker.empty.advance (some (.gpr 2)) 4).advance (some (.gpr 3)) 4
    t = youngest [⟨some (.gpr 3), 4⟩, ⟨some (.gpr 2), 3⟩] ∧
    t.check (.gpr 2) 3 = 0 ∧ t.check (.gpr 3) 3 = 1 ∧ t.check (.gpr 3) 4 = 0 ∧ t.check (.gpr 9) 3 = 0 ∧
    t.advance none 0 = youngest [Slot.bubble, ⟨some (.gpr 3), 3⟩, ⟨some (.gpr 2), 2⟩] := by decide
/-- T-TK9, for `j` = 0, 3, 7 and 8. -/
theorem test_tracker_acc :
    let t := Tracker.empty.advance (some .acc) 7
    t.check .acc 3 = 4 ∧ (t.bubbles 3).check .acc 3 = 1 ∧ (t.bubbles 7)[7] = ⟨some .acc, 0⟩ ∧
    t.bubbles 8 = Tracker.empty := by decide
/-- T-HZ5, its third instruction: the `addu` stalls 1, for the younger entry. -/
theorem test_youngest_writer_decides : stepGives 0x00A03021
    (fun s => { s with tracker := youngest [⟨some (.gpr 5), 4⟩, ⟨some (.gpr 5), 5⟩] })
    (fun t => t.bubbles == 1 && t.tracker == youngest
      [⟨some (.gpr 6), 4⟩, Slot.bubble, ⟨some (.gpr 5), 2⟩, ⟨some (.gpr 5), 3⟩]) := by decide
/-- T-HZ6, its third instruction: the larger of the two deficits, not the sum. -/
theorem test_two_operands_stall_once : stepGives 0x00A63821
    (fun s => { s with tracker := youngest [⟨some (.gpr 6), 4⟩, ⟨some (.gpr 5), 5⟩] })
    (fun t => t.bubbles == 2) := by decide

/-! ### Assembler text (R53) -/

/-- The document's own two lines, and the column of R53's table. -/
theorem test_asm :
    State.reset.asm (.addiu 2 0 5) = "addiu $2,$0,5" ∧ State.reset.asm (.addu 4 2 3) = "addu $4,$2,$3" ∧
    State.reset.asm (.lw 8 29 0xFFFC) = "lw $8,-4($29)" ∧ State.reset.asm .trapHalt = "trap.halt" := by decide

/-! ### Witnesses: concrete states and operands that meet the hypotheses of each statement -/

/-- The reference trap encoding meets R7: `te.wf`, the one hypothesis of DecodeEncodeRoundTrip, AddiuAndiComputeAndFrame,
LuiComputesAndFrame, JumpTargetAndFrame, TrapPrintEmitsSignedInteger, TrapNewlineEmitsNewline and TrapHaltHalts. -/
theorem test_witness_DecodeEncodeRoundTrip : TrapEncoding.standard.wf := by decide

theorem test_witness_EncodeKeepsExactlyTheUsedBits :
    decode TrapEncoding.standard 0x00A419E1 = .instr (.addu 3 5 4) := by decide

theorem test_witness_IgnoredBitsNeverMatter :
    decode TrapEncoding.standard 0x00A41821 = .instr (.addu 3 5 4) ∧
    0x00A419E1 &&& (Instr.addu 3 5 4).usedBits TrapEncoding.standard =
      0x00A41821 &&& (Instr.addu 3 5 4).usedBits TrapEncoding.standard := by decide

theorem test_witness_DecodeAgreesWithOpcodeTable :
    TrapEncoding.standard.wf ∧ decode TrapEncoding.standard 0x24020005 = .instr (.addiu 2 0 5) ∧
    primaryRow "ADDIU" 0x09 ∈ opcodeTable TrapEncoding.standard ∧ (primaryRow "ADDIU" 0x09).selects 0x24020005 := by
  decide

theorem test_witness_OpcodeRowsAreDisjoint :
    TrapEncoding.standard.wf ∧ trapRow "TRAP.HALT" 0x1A 0xA ∈ opcodeTable TrapEncoding.standard ∧
    (trapRow "TRAP.HALT" 0x1A 0xA).selects 0x6800000A := by decide

theorem test_witness_UnsupportedWordRaises :
    (ready 0xFFFFFFFF id).params.trap.wf ∧ (ready 0xFFFFFFFF id).status = .running ∧
    (ready 0xFFFFFFFF id).ifetch = some 0xFFFFFFFF ∧
    ∀ r ∈ opcodeTable (ready 0xFFFFFFFF id).params.trap, ¬ r.selects 0xFFFFFFFF := by decide

/-- Both ends of the jump region and both ends of the branch range, from `START_PC`. -/
theorem test_witness_LabelFieldsReachTheLabel :
    (0x00000000#32).toNat / 2 ^ 28 = (State.reset.pc + 4).toNat / 2 ^ 28 ∧ (0x00000000#32).toNat % 4 = 0 ∧
    (0x0FFFFFFC#32).toNat / 2 ^ 28 = (State.reset.pc + 4).toNat / 2 ^ 28 ∧ (0x0FFFFFFC#32).toNat % 4 = 0 ∧
    (0x003E0004#32 - (State.reset.pc + 4)).toNat % 4 = 0 ∧ (0x003E0004#32 - (State.reset.pc + 4)).toInt = -131072 ∧
    (0x00420000#32 - (State.reset.pc + 4)).toNat % 4 = 0 ∧ (0x00420000#32 - (State.reset.pc + 4)).toInt = 131068 := by
  refine ⟨rfl, rfl, rfl, rfl, rfl, rfl, rfl, rfl⟩

theorem test_witness_StartMeetsInvariant : Params.reference.wf := by decide

/-- A loaded state meets the invariant. -/
theorem ready_inv : (ready 0x24020005 id).Inv where
  params := by decide
  zero := by decide
  tracker := Tracker.empty_bounded
  memory := ⟨by decide, by decide⟩
  fault := by intro f h; cases h

theorem test_witness_StepKeepsInvariant : (ready 0x24020005 id).Inv ∧ ∃ t, step (ready 0x24020005 id) = .next t :=
  ⟨ready_inv, _, rfl⟩

/-- A start, a state with an answer ready, and a state after a step are reachable. -/
theorem test_witness_ReachableStatesMeetInvariant :
    Params.reference.wf ∧ Reachable Params.reference ((State.start Params.reference).supplyInput [5]) ∧
    ∃ t, step State.reset = .next t ∧ Reachable Params.reference t :=
  ⟨by decide, .input _ .start, _, rfl, .step .start rfl⟩

/-- The first and the last word of a two-word image. -/
theorem test_witness_StepRunsTheDecodedInstruction :
    let s := State.start (withProgram Params.reference [0x24020005, 0x6800000A])
    s.status = .running ∧ s.params.imemBase % 4 = 0 ∧
    s.pc.toNat = s.params.imemBase + 4 * 0 ∧ s.params.imem[0]? = some 0x24020005 ∧
    decode s.params.trap 0x24020005 = .instr (.addiu 2 0 5) ∧
    (s.setPc 0x00400004).pc.toNat = s.params.imemBase + 4 * 1 ∧ s.params.imem[1]? = some 0x6800000A ∧
    decode s.params.trap 0x6800000A = .instr .trapHalt := by decide

/-- Outside: misaligned, below the image, just past its end. Inside: its only word. -/
theorem test_witness_FetchRangeRule :
    (ready 0x24020005 id).status = .running ∧
    ((ready 0x24020005 id).setPc 0x00400002).outsideImage 0x00400002 ∧
    ((ready 0x24020005 id).setPc 0x003FFFFC).outsideImage 0x003FFFFC ∧
    ((ready 0x24020005 id).setPc 0x00400004).outsideImage 0x00400004 ∧
    ¬ (ready 0x24020005 id).outsideImage (ready 0x24020005 id).pc := by
  unfold State.outsideImage; decide

/-- The two kinds of stopped core, and a running one that retires, raises, or waits. -/
theorem test_witness_CoreStepsOnlyWhileRunning :
    State.reset.halt.status ≠ .running ∧ (State.reset.withFatal (.fetchRange 0)).status ≠ .running ∧
    State.reset.status = .running ∧
    stepGives 0x24020005 id (fun t => t.instructions == 1) ∧
    stepGives 0x0043001A id (fun t => t.status.fatal.isSome) ∧
    stepGives 0x68020005 id (fun t => t.instructions == 0 && t.status == .running) := by decide

theorem test_witness_FatalStepChangesOnlyStatus :
    (ready 0x0043001A id).status = .running ∧
    ∃ t, step (ready 0x0043001A id) = .next t ∧ t.status = .faulted (.arithmetic 0x00400000) :=
  ⟨rfl, _, rfl, rfl⟩

/-- DIV, LW and SW each raise somewhere. -/
theorem test_witness_OnlyDivLoadStoreRaise :
    State.reset.status = .running ∧
    (∃ t, exec (.div 2 3) State.reset = .next t ∧ t.status = .faulted (.arithmetic 0x00400000)) ∧
    (∃ t, exec (.lw 8 0 2) State.reset = .next t ∧ t.status = .faulted (.dataAccess 0x00400000 2 .unaligned)) ∧
    (∃ t, exec (.sw 8 0 4) State.reset = .next t ∧ t.status = .faulted (.dataAccess 0x00400000 4 .outOfBounds)) :=
  ⟨rfl, ⟨_, rfl, rfl⟩, ⟨_, rfl, rfl⟩, ⟨_, rfl, rfl⟩⟩

/-- A step that halts, a step that faults, and a step of a stopped core. -/
theorem test_witness_RunStatusRule :
    (ready 0x6800000A id).status = .running ∧ (∃ t, step (ready 0x6800000A id) = .next t ∧ t.status = .halted) ∧
    (∃ t, step (ready 0x0043001A id) = .next t ∧ ∃ f, t.status = .faulted f) ∧
    State.reset.halt.status ≠ .running ∧ ∃ t, step State.reset.halt = .next t :=
  ⟨rfl, ⟨_, rfl, rfl⟩, ⟨_, rfl, _, rfl⟩, by decide, _, rfl⟩

/-- A state of each of the four conditions: fetch, dispatch, DIV, and a load that is both misaligned and outside. -/
theorem test_witness_FatalConditionsRaisedExactlyWhen :
    State.reset.params.trap.wf ∧ State.reset.status = .running ∧
    State.reset.outsideImage State.reset.pc ∧
    ((ready 0xFFFFFFFF id).ifetch = some 0xFFFFFFFF ∧
      ∀ r ∈ opcodeTable (ready 0xFFFFFFFF id).params.trap, ¬ r.selects 0xFFFFFFFF) ∧
    ((ready 0x0043001A id).nextInstr = some (.div 2 3) ∧ (ready 0x0043001A id).reg 3 = 0) ∧
    ((ready 0x8C080002 id).nextInstr = some (.lw 8 0 2) ∧
      ¬ (ready 0x8C080002 id).validAddress ((ready 0x8C080002 id).effectiveAddress 0 2)) := by
  unfold State.validAddress State.outsideImage; decide

theorem test_witness_InputsAndImageNeverChange : ∃ t, step (ready 0xAF840000 (·.writeReg 4 12)) = .next t := ⟨_, rfl⟩

/-- A step that retires and a step that raises. -/
theorem test_witness_ProgramCounterRule :
    (ready 0x08100008 id).status = .running ∧ (∃ t, step (ready 0x08100008 id) = .next t ∧ t.pc = 0x00400020) ∧
    (ready 0x0043001A id).status = .running ∧ (∃ t, step (ready 0x0043001A id) = .next t ∧ t.pc = 0x00400000) :=
  ⟨rfl, ⟨_, rfl, rfl⟩, rfl, ⟨_, rfl, rfl⟩⟩

theorem test_witness_OnlyTheDestinationRegisterChanges :
    (∃ t, exec (.addiu 2 0 5) State.reset = .next t) ∧ (Instr.addiu 2 0 5).dest ≠ some (.gpr 3) ∧
    (∃ t, exec (.addiu 0 0 5) State.reset = .next t) ∧ (Instr.addiu 0 0 5).dest = some (.gpr 0) :=
  ⟨⟨_, rfl⟩, by decide, ⟨_, rfl⟩, by decide⟩

/-- A register not read that is not the destination, and one that is. -/
theorem test_witness_OnlyTheNamedRegistersAreRead :
    (9 : Reg) ∉ (Instr.addu 4 2 3).reads ∧ (4 : Reg) ∉ (Instr.addu 4 2 3).reads ∧
    (Instr.addu 4 2 3).dest = some (.gpr 4) ∧
    ∃ t, exec (.addu 4 2 3) State.reset = .next t ∧ t.instructions = State.reset.instructions + 1 :=
  ⟨by decide, by decide, by decide, _, rfl, rfl⟩

/-- An instruction that changes an accumulator, two that are no moves from one, a DIV that retires and one that raises. -/
theorem test_witness_AccumulatorsOnlyByTheirFourInstructions :
    (∃ t, exec (.mult 28 28) State.reset = .next t ∧ (t.hi ≠ State.reset.hi ∨ t.lo ≠ State.reset.lo)) ∧
    (∀ rd, (Instr.mult 28 28) ≠ .mfhi rd ∧ (Instr.mult 28 28) ≠ .mflo rd) ∧
    (∃ t, exec (.div 29 28) State.reset = .next t ∧ t.instructions = State.reset.instructions + 1) ∧
    (∃ t, exec (.div 29 3) State.reset = .next t ∧ t.instructions = State.reset.instructions) ∧
    (∀ rs rt, (Instr.addu 4 2 3) ≠ .mult rs rt ∧ (Instr.addu 4 2 3) ≠ .div rs rt) :=
  ⟨⟨_, rfl, by decide⟩, by decide, ⟨_, rfl, rfl⟩, ⟨_, rfl, rfl⟩, by decide⟩

theorem test_witness_DataMemoryOnlyByStore :
    (ready 0xAF9C0000 id).dmem.wf ∧ ∃ t, step (ready 0xAF9C0000 id) = .next t ∧ ¬ (ready 0xAF9C0000 id).sameMem t :=
  ⟨by decide, _, rfl, fun h => absurd (h 0x2000) (by decide)⟩

/-- A print step and a read step. -/
theorem test_witness_ConsoleTransactionsInOrder :
    (∃ t, step (ready 0x68800001 id) = .next t ∧ t.consoleOut = [.int 0]) ∧
    (∃ t, step (ready 0x68020005 (·.supplyInput [7, 8])) = .next t ∧ t.consoleIn = [8]) :=
  ⟨⟨_, rfl, rfl⟩, ⟨_, rfl, rfl⟩⟩

/-- With nothing at the pc, and with a word already there. -/
theorem test_witness_PlacedWordIsTheWordRun :
    decode State.reset.params.trap (BitVec.ofNat 32 (0x24020005 % 2 ^ 32)) = .instr (.addiu 2 0 5) ∧
    State.reset.outsideImage State.reset.pc ∧ ¬ (ready 0 id).outsideImage (ready 0 id).pc := by
  unfold State.outsideImage; decide

theorem test_witness_CostTable :
    (∃ t, exec (.addu 4 2 3) State.reset = .next t) ∧ (∃ t, exec (.div 2 3) State.reset = .next t) ∧
    (∃ t, exec (.trapRead 2) State.reset = .next t) := ⟨⟨_, rfl⟩, ⟨_, rfl⟩, ⟨_, rfl⟩⟩

theorem test_witness_AdvanceShiftsAgesAndForgets : 8 ≤ (List.replicate 8 Slot.bubble).length := by decide

/-- The youngest holder in slot 0 and in slot 7, an index no slot holds, and an entry of another index. -/
theorem test_witness_YoungestWriterDecides :
    ((youngest [⟨some (.gpr 2), 4⟩])[(0 : Fin 8)].dest = some (.gpr 2) ∧
      ∀ j : Fin 8, j < 0 → (youngest [⟨some (.gpr 2), 4⟩])[j].dest ≠ some (.gpr 2)) ∧
    (((youngest [⟨some (.gpr 2), 7⟩]).bubbles 7)[(7 : Fin 8)].dest = some (.gpr 2) ∧
      ∀ j : Fin 8, j < 7 → ((youngest [⟨some (.gpr 2), 7⟩]).bubbles 7)[j].dest ≠ some (.gpr 2)) ∧
    (∀ i : Fin 8, (youngest [⟨some (.gpr 2), 4⟩])[i].dest ≠ some (.gpr 3)) ∧
    some (TrackIdx.gpr 2) ≠ some (TrackIdx.gpr 3) := by decide

/-- The tracker after a MULT keeps the bound and shows a deficit. -/
theorem test_witness_StallLeavesNoDeficit :
    (Tracker.empty.advance (some .acc) 7).bounded ∧ (Tracker.empty.advance (some .acc) 7).check .acc 3 = 4 :=
  ⟨Tracker.advance_bounded Tracker.empty_bounded (by decide) (by decide), by decide⟩

theorem test_witness_TwoStallsCostTheLarger :
    ((Tracker.empty.advance (some (.gpr 5)) 6).advance (some (.gpr 6)) 4).bounded :=
  Tracker.advance_bounded (Tracker.advance_bounded Tracker.empty_bounded (by decide) (by decide)) (by decide) (by decide)

/-- The last distance at which the producer is still held, and the first at which it is gone. -/
theorem test_witness_StallDistanceLaw :
    (∀ e ∈ List.replicate 7 Slot.bubble, e.dest ≠ some .acc) ∧ (List.replicate 7 Slot.bubble).length ≤ 7 ∧
    (∀ e ∈ List.replicate 8 Slot.bubble, e.dest ≠ some .acc) ∧ ¬ (List.replicate 8 Slot.bubble).length ≤ 7 := by decide

theorem test_witness_OneAdvancePerCycle : ∃ t, step (ready 0x08100008 id) = .next t ∧ t.flushes = 2 := ⟨_, rfl, rfl⟩

/-- The two upper bounds are reached: MFHI stalls 4, ADDU stalls 3. -/
theorem test_witness_CostBounds :
    (Tracker.empty.advance (some .acc) 7).bounded ∧
    (∃ t, exec (.mfhi 4) { State.reset with tracker := Tracker.empty.advance (some .acc) 7 } = .next t ∧
      t.bubbles = 4) ∧
    (Tracker.empty.advance (some (.gpr 5)) 6).bounded ∧
    (∃ t, exec (.addu 6 5 0) { State.reset with tracker := Tracker.empty.advance (some (.gpr 5)) 6 } = .next t ∧
      t.bubbles = 3) :=
  ⟨Tracker.advance_bounded Tracker.empty_bounded (by decide) (by decide), ⟨_, rfl, rfl⟩,
    Tracker.advance_bounded Tracker.empty_bounded (by decide) (by decide), ⟨_, rfl, rfl⟩⟩

/-- Two states that differ in the tracker and the counters and in nothing else. -/
theorem test_witness_TimingNeverAffectsFunction :
    let s' := (ready 0x00A03021 id).stall (.gpr 5) 3
    (ready 0x00A03021 id).function = ((ready 0x00A03021 id).retire (some (.gpr 5)) 4).function ∧
    (ready 0x00A03021 id).function = s'.function ∧ ∃ t, step (ready 0x00A03021 id) = .next t :=
  ⟨rfl, rfl, _, rfl⟩

theorem test_witness_CountersNeverDecrease :
    (∃ t, step State.reset.halt = .next t) ∧ State.reset.halt.status ≠ .running := ⟨⟨_, rfl⟩, by decide⟩

/-- Less and not less. -/
theorem test_witness_SltComputesAndFrame :
    (0x80000000#32).toInt < (0x7FFFFFFF#32).toInt ∧ ¬ (0x7FFFFFFF#32).toInt < (0x80000000#32).toInt ∧
    ((State.reset.writeReg 2 0x80000000).reg 2).toInt < ((State.reset.writeReg 2 0x80000000).reg 3).toInt ∧
    ¬ (State.reset.reg 2).toInt < (State.reset.reg 3).toInt := by decide

/-- A zero divisor and a divisor that is not. -/
theorem test_witness_DivQuotientAndRemainder : State.reset.reg 3 = 0 ∧ State.reset.reg 28 ≠ 0 := by decide

/-- The first and the last valid word, a misaligned address, and the first address past the region. -/
theorem test_witness_LoadWordComputesAndFrame :
    State.reset.params.dmemFits ∧
    (0x10000000#32 = BitVec.ofInt 32 ((State.reset.reg 28).toNat + (0x8000#16).toInt) ∧
      State.reset.validAddress 0x10000000) ∧
    (0x1000FFFC#32 = BitVec.ofInt 32 ((State.reset.reg 29).toNat + (0xFFFC#16).toInt) ∧
      State.reset.validAddress 0x1000FFFC) ∧
    (0x10008002#32 = BitVec.ofInt 32 ((State.reset.reg 28).toNat + (2#16).toInt) ∧ (0x10008002#32).toNat % 4 ≠ 0) ∧
    (0x10010000#32 = BitVec.ofInt 32 ((State.reset.reg 29).toNat + (0#16).toInt) ∧ (0x10010000#32).toNat % 4 = 0 ∧
      ¬ State.reset.validAddress 0x10010000) := by
  unfold State.validAddress; decide

theorem test_witness_StoreWordComputesAndFrame :
    State.reset.params.dmemFits ∧ State.reset.dmem.wf ∧
    (0x10000000#32 = BitVec.ofInt 32 ((State.reset.reg 28).toNat + (0x8000#16).toInt) ∧
      State.reset.validAddress 0x10000000) ∧
    (0x10008002#32 = BitVec.ofInt 32 ((State.reset.reg 28).toNat + (2#16).toInt) ∧ (0x10008002#32).toNat % 4 ≠ 0) ∧
    (0x10010000#32 = BitVec.ofInt 32 ((State.reset.reg 29).toNat + (0#16).toInt) ∧ (0x10010000#32).toNat % 4 = 0 ∧
      ¬ State.reset.validAddress 0x10010000) := by
  unfold State.validAddress; decide

/-- A store, another address, and a load of the stored word. -/
theorem test_witness_LoadSeesTheLatestStore :
    State.reset.dmem.wf ∧ State.reset.validAddress (State.reset.effectiveAddress 28 0) ∧
    (∃ t, exec (.sw 29 28 0) State.reset = .next t ∧
      t.effectiveAddress 28 0 = State.reset.effectiveAddress 28 0) ∧
    0x10008004 ≠ State.reset.effectiveAddress 28 0 ∧ (8 : Reg) ≠ 0 :=
  ⟨by decide, by unfold State.validAddress; decide, ⟨_, rfl, rfl⟩, by decide, by decide⟩

/-- Register 31 and the others, both present. -/
theorem test_witness_JumpAndLinkTargetAndFrame : (30 : Reg) ≠ 31 ∧ TrapEncoding.standard.wf := by decide

/-- A misaligned JR, a JR far outside, and a taken branch to an address before the image. -/
theorem test_witness_BadTargetFaultsAtTheNextFetch :
    State.reset.status = .running ∧
    ((Instr.jr 28).taken State.reset = true ∧ State.reset.outsideImage (State.reset.pcAfter (.jr 28))) ∧
    ((Instr.beq 0 0 0xFFFD).taken (ready 0 id) = true ∧
      (ready 0 id).outsideImage ((ready 0 id).pcAfter (.beq 0 0 0xFFFD))) ∧
    (ready 0x00A00008 (·.writeReg 5 0x00400002)).outsideImage 0x00400002 ∧
    (∃ t, exec (.jr 28) State.reset = .next t) ∧ ∃ t, exec (.beq 0 0 0xFFFD) (ready 0 id) = .next t := by
  refine ⟨by decide, ⟨by decide, ?_⟩, ⟨by decide, ?_⟩, ?_, ⟨_, rfl⟩, ⟨_, rfl⟩⟩ <;> unfold State.outsideImage <;> decide

theorem test_witness_JumpRegisterTargetAndFrame :
    State.reset.status = .running ∧ State.reset.outsideImage (State.reset.reg 28) := by
  unfold State.outsideImage; decide

/-- Equal and different registers. -/
theorem test_witness_BranchesTargetAndFrame :
    State.reset.reg 2 = State.reset.reg 3 ∧ State.reset.reg 28 ≠ State.reset.reg 29 := by decide

/-- A console with an answer and a console without. -/
theorem test_witness_TrapReadTakesAnswerOrWaits :
    (State.reset.supplyInput [5]).consoleIn = 5 :: [] ∧ State.reset.consoleIn = [] := by decide

end Sys2Proof.Tests
end

section
/-! The start of a run meets the invariant (`00_scope.md` R6, R7; `10_state.md` R26; `70_reset_and_hazards.md` R150). -/

namespace Sys2Proof.Machine

/-- R26: neither `GP_INIT` nor `SP_INIT` goes to the cell behind register 0 (R11). -/
theorem startRegs_zero (p : Params) : (startRegs p)[0] = 0 := by
  simp [startRegs]

/-- A running core has no fatal condition recorded, so none that could be imprecise (R131). -/
theorem State.preciseFault_of_running {s : State} (h : s.status = .running) : s.preciseFault := by
  intro f hf
  rw [h] at hf
  cases hf

/-- The base case of every induction over a run; data memory starts as `DMEM_INIT`, whose form is part of `p.wf`. -/
theorem State.start_inv {p : Params} (hp : p.wf) : (State.start p).Inv := by
  have ⟨_, _, hform, hregion, _⟩ := hp
  exact
    { params := hp
      zero := startRegs_zero p
      tracker := Tracker.empty_bounded
      memory := ⟨hform, hregion⟩
      fault := State.preciseFault_of_running rfl }

/-- The reference values of R6 and R7 meet the constraints those rules state. -/
theorem reference_wf : Params.reference.wf := by decide

/-- Settles O12: field by field at any well-formed start, and `State.reset` is the start at the reference values. -/
theorem startMeetsInvariant : Obligations.StartMeetsInvariant :=
  ⟨fun _ hp => State.start_inv hp, State.start_inv reference_wf⟩

end Sys2Proof.Machine
end

section
/-! What an instruction can do, said once: it retires, having stalled for its operands (`40_step_and_tracker.md` R68)
and written its results, or raises a fatal condition of its own `pc` (`60_exceptions.md` R131), or waits for the console
(`46_trap.md` R120). Then the same of a step. -/

namespace Sys2Proof.Machine

/-! ### The operands checked -/

/-- The state after the `Stall`s of some operands in order (R68, R71). -/
def State.stalls (s : State) : List (TrackIdx × Nat) → State
  | [] => s
  | (r, n) :: rest => (s.stall r n).stalls rest

/-- The `Stall`s of some operands change the tracker and the bubbles and nothing else. -/
theorem State.stalls_eq (s : State) (needs : List (TrackIdx × Nat)) :
    s.stalls needs = { s with
      tracker := s.tracker.afterStalls needs
      bubbles := s.bubbles + s.tracker.stallSum needs } := by
  induction needs generalizing s with
  | nil => rfl
  | cons need rest ih =>
    obtain ⟨r, n⟩ := need
    simp only [State.stalls, ih, State.stall, Tracker.afterStalls, Tracker.stallSum, Nat.add_assoc]

/-! ### What an instruction leaves unchanged -/

/-- From `s` to `t` nothing changed that instruction `i` has no part in: no general register but its destination (R13),
no accumulator unless it is MULT or DIV (R14), no word of data memory unless it is SW (R16), no run status unless it is
TRAP.HALT (R21), no parameter (R27). -/
structure State.Frame (s : State) (i : Instr) (t : State) : Prop where
  params : t.params = s.params
  regs : t.regs = s.regs ∨ ∃ d v, i.dest = some (.gpr d) ∧ t.regs = (s.writeReg d v).regs
  acc : s.sameAcc t ∨ ∃ rs rt, i = .mult rs rt ∨ i = .div rs rt
  dmem : t.dmem = s.dmem ∨ ∃ rt rs imm, i = .sw rt rs imm ∧
    s.badAddress (s.effectiveAddress rs imm) = none ∧
    t.dmem = s.dmem.write (s.wordIndex (s.effectiveAddress rs imm)) (s.reg rt)
  status : t.status = s.status ∨ (t.status = .halted ∧ i = .trapHalt)

/-- `u` is `s` with all done that instruction `i` does before its `Retire`: its operands checked, its results
written. -/
structure State.Performed (s : State) (i : Instr) (u : State) : Prop extends s.Frame i u where
  pc : u.pc = s.pc
  tracker : u.tracker = s.tracker.afterStalls i.needs
  instructions : u.instructions = s.instructions
  bubbles : u.bubbles = s.bubbles + s.tracker.stallSum i.needs
  flushes : u.flushes = s.flushes

/-- From `s` to `t` instruction `i` retired: its frame, its next `pc` (R15), its cost (R155). -/
structure State.Retired (s : State) (i : Instr) (t : State) : Prop extends s.Frame i t where
  pc : t.pc = s.pcAfter i
  cost : s.costOf t i

/-! ### Up to `Retire` -/

variable {s u : State} {i : Instr}

theorem State.performed_stalls : s.Performed i (s.stalls i.needs) := by
  rw [State.stalls_eq]
  exact
    { params := rfl
      regs := .inl rfl
      acc := .inl ⟨rfl, rfl⟩
      dmem := .inl rfl
      status := .inl rfl
      pc := rfl
      tracker := rfl
      instructions := rfl
      bubbles := rfl
      flushes := rfl }

theorem State.performed_writeReg {d : Reg} (v : Word) (hd : i.dest = some (.gpr d)) :
    s.Performed i ((s.stalls i.needs).writeReg d v) :=
  { State.performed_stalls with
    regs := .inr ⟨d, v, hd, by simp only [State.stalls_eq, State.writeReg_regs]⟩ }

theorem State.performed_writeAcc (h l : Word) (hi : ∃ rs rt, i = .mult rs rt ∨ i = .div rs rt) :
    s.Performed i ((s.stalls i.needs).writeAcc h l) :=
  { State.performed_stalls with acc := .inr hi }

theorem State.performed_store {rt rs : Reg} {imm : BitVec 16}
    (hb : s.badAddress (s.effectiveAddress rs imm) = none) :
    s.Performed (.sw rt rs imm) { s.stalls (Instr.sw rt rs imm).needs with
      dmem := s.dmem.write (s.wordIndex (s.effectiveAddress rs imm)) (s.reg rt) } :=
  { State.performed_stalls with dmem := .inr ⟨rt, rs, imm, rfl, hb, rfl⟩ }

theorem State.performed_halt : s.Performed .trapHalt s.halt :=
  { (State.performed_stalls : s.Performed .trapHalt (s.stalls Instr.trapHalt.needs)) with
    status := .inr ⟨rfl, rfl⟩ }

/-- The console has no part in it: what an instruction takes from or hands to the console may stand in between. -/
theorem State.Performed.withConsole (h : s.Performed i u) (answers : List Word) (trace : List Token) :
    s.Performed i { u with consoleIn := answers, consoleOut := trace } :=
  { h with }

/-! ### `Retire` and after -/

/-- An instruction that redirects nothing goes on at `pc + 4` (R15). -/
theorem State.Performed.goesOn (h : s.Performed i u) (ht : i.taken s = false) :
    s.Retired i ((u.retire i.dest i.availableAt).advancePc) :=
  { h with
    pc := by simp [State.pcAfter, ht, h.pc, State.nextPc]
    cost := by simp [State.costOf, State.cost, ht, h.tracker, h.instructions, h.bubbles, h.flushes] }

/-- A transfer taken flushes and goes on at its target (R70, R115(b)). -/
theorem State.Performed.transfers (h : s.Performed i u) (ht : i.taken s = true) {target : Word}
    (hpc : s.pcAfter i = target) : s.Retired i (((u.retire i.dest i.availableAt).flush).setPc target) :=
  { h with
    pc := hpc.symm
    cost := by simp [State.costOf, State.cost, ht, h.tracker, h.instructions, h.bubbles, h.flushes] }

/-! ### One instruction -/

variable {t : State}

/-- What an instruction can do: retire, raise a fatal condition that records its `pc` and changes nothing else, or wait
for the console, which changes nothing. -/
theorem exec_cases (h : exec i s = .next t) :
    s.Retired i t ∨ (∃ f : Fatal, f.pc = s.pc ∧ t = s.withFatal f) ∨
      (t = s ∧ (∃ rt, i = .trapRead rt) ∧ s.consoleIn = []) := by
  cases i with
  | sll | srl | sra | addu | subu | slt | addiu | andi | lui | mfhi | mflo =>
    cases h
    exact .inl ((State.performed_writeReg _ rfl).goesOn rfl)
  | mult rs rt =>
    cases h
    exact .inl ((State.performed_writeAcc _ _ ⟨rs, rt, .inl rfl⟩).goesOn rfl)
  | div rs rt =>
    rcases execDiv_cases h with ⟨-, rfl⟩ | ⟨-, rfl⟩
    · exact .inr (.inl ⟨_, rfl, rfl⟩)
    · exact .inl ((State.performed_writeAcc _ _ ⟨rs, rt, .inr rfl⟩).goesOn rfl)
  | j | jr =>
    cases h
    exact .inl (State.performed_stalls.transfers rfl rfl)
  | jal target =>
    cases h
    exact .inl ((State.performed_writeReg _ rfl).transfers rfl rfl)
  | beq rs rt imm =>
    rcases execBeq_cases h with ⟨he, rfl⟩ | ⟨hne, rfl⟩
    · exact .inl (State.performed_stalls.transfers (by simp [Instr.taken, he])
        (by simp [State.pcAfter, Instr.taken, he]))
    · exact .inl (State.performed_stalls.goesOn (by simp [Instr.taken, hne]))
  | bne rs rt imm =>
    rcases execBne_cases h with ⟨hne, rfl⟩ | ⟨he, rfl⟩
    · exact .inl (State.performed_stalls.transfers (by simp [Instr.taken, hne])
        (by simp [State.pcAfter, Instr.taken, hne]))
    · exact .inl (State.performed_stalls.goesOn (by simp [Instr.taken, he]))
  | lw rt rs imm =>
    rcases execLw_cases h with ⟨r, -, rfl⟩ | ⟨-, rfl⟩
    · exact .inr (.inl ⟨_, rfl, rfl⟩)
    · exact .inl ((State.performed_writeReg _ rfl).goesOn rfl)
  | sw rt rs imm =>
    rcases execSw_cases h with ⟨r, -, rfl⟩ | ⟨hb, rfl⟩
    · exact .inr (.inl ⟨_, rfl, rfl⟩)
    · exact .inl ((State.performed_store hb).goesOn rfl)
  | trapNl | trapPrint =>
    cases h
    exact .inl ((State.performed_stalls.withConsole _ _).goesOn rfl)
  | trapRead rt =>
    rcases execTrapRead_cases h with ⟨hc, rfl⟩ | ⟨v, rest, -, rfl⟩
    · exact .inr (.inr ⟨rfl, ⟨rt, rfl⟩, hc⟩)
    · exact .inl (((State.performed_writeReg v rfl).withConsole _ _).goesOn rfl)
  | trapHalt =>
    cases h
    exact .inl (State.performed_halt.goesOn rfl)

end Sys2Proof.Machine
end

section
/-! A step, by what its instruction can do; and what every step keeps: the invariant (`10_state.md` R11, R16, R19, R27;
`60_exceptions.md` R131), the run status rule (R21), the inputs (R27), the `pc` (R15), data memory (R16), the counters
(R20). -/

namespace Sys2Proof.Machine

variable {s t : State} {i : Instr}

/-! ### One step -/

/-- A running core whose fetch answers an instruction runs its rule (R61). -/
theorem step_of_nextInstr (hr : s.status = .running) (hi : s.nextInstr = some i) : step s = exec i s := by
  unfold State.nextInstr at hi
  cases hf : s.ifetch with
  | none => simp [hf] at hi
  | some w =>
    cases hd : decode s.params.trap w with
    | unsupported why => simp [hf, hd, Decoded.toOption] at hi
    | instr j =>
      obtain rfl : j = i := by simpa [hf, hd, Decoded.toOption] using hi
      exact step_of_decoded hr hf hd

/-- What a step can do: retire the instruction fetched, raise a fatal condition that records the `pc` and changes
nothing else, or (stopped, or waiting for the console) change nothing. -/
theorem step_outcome (h : step s = .next t) :
    (∃ i, s.status = .running ∧ s.nextInstr = some i ∧ s.Retired i t) ∨
    (∃ f : Fatal, s.status = .running ∧ f.pc = s.pc ∧ t = s.withFatal f) ∨
    (t = s ∧ (s.status ≠ .running ∨ s.waiting)) := by
  rcases step_cases h with ⟨hs, ht⟩ | ⟨hs, -, ht⟩ | ⟨w, why, hs, -, -, ht⟩ | ⟨w, i, hs, -, -, hi, hx⟩
  · exact .inr (.inr ⟨ht, .inl hs⟩)
  · exact .inr (.inl ⟨_, hs, rfl, ht⟩)
  · exact .inr (.inl ⟨_, hs, rfl, ht⟩)
  · rcases exec_cases hx with hret | ⟨f, hf, ht⟩ | ⟨ht, ⟨rt, rfl⟩, hc⟩
    · exact .inl ⟨i, hs, hi, hret⟩
    · exact .inr (.inl ⟨f, hs, hf, ht⟩)
    · exact .inr (.inr ⟨ht, .inr ⟨⟨rt, hi⟩, hc⟩⟩)

/-- A stopped core changes nothing (R60; log 2). -/
theorem step_stopped (h : step s = .next t) (hs : s.status ≠ .running) : t = s := by
  rcases step_outcome h with ⟨_, hr, _⟩ | ⟨_, hr, _⟩ | ⟨ht, _⟩
  · exact absurd hr hs
  · exact absurd hr hs
  · exact ht

/-! ### The tracker and the counters of an instruction that retires -/

theorem Tracker.bubbles_add (t : Tracker) (k n : Nat) : t.bubbles (k + n) = (t.bubbles k).bubbles n := by
  induction k generalizing t with
  | zero => rw [Nat.zero_add, Tracker.bubbles_zero]
  | succ k ih => rw [Nat.succ_add, Tracker.bubbles_succ, Tracker.bubbles_succ, ih]

/-- The `Stall`s of some operands in order are that many bubbles in a row. -/
theorem Tracker.afterStalls_eq_bubbles (t : Tracker) (needs : List (TrackIdx × Nat)) :
    t.afterStalls needs = t.bubbles (t.stallSum needs) := by
  induction needs generalizing t with
  | nil => rfl
  | cons need rest ih =>
    obtain ⟨r, n⟩ := need
    rw [Tracker.afterStalls, Tracker.stallSum, ih, Tracker.bubbles_add]
    rfl

/-- Entries recorded one `Advance` each, the first of the list first. -/
def Tracker.advanceAll (t : Tracker) (entries : List Slot) : Tracker :=
  entries.foldl (fun u e => u.advance e.dest e.cyc) t

theorem Tracker.bubbles_eq_advanceAll (t : Tracker) (k : Nat) :
    t.bubbles k = t.advanceAll (List.replicate k Slot.bubble) := by
  induction k generalizing t with
  | zero => rfl
  | succ k ih => exact ih _

/-- The entries an instruction records as it retires: the bubbles of its `Stall`s, its own, the bubbles of its `Flush`
(R68, R69, R70). -/
def State.entriesOf (s : State) (i : Instr) : List Slot :=
  List.replicate (s.tracker.stallSum i.needs) Slot.bubble ++ ⟨i.dest, i.availableAt⟩ ::
    if i.taken s then [Slot.bubble, Slot.bubble] else []

/-- R73: the entries recorded are as many as the cycles counted. -/
theorem State.Retired.entries (h : s.Retired i t) :
    t.tracker = s.tracker.advanceAll (s.entriesOf i) ∧ t.advances = s.advances + (s.entriesOf i).length := by
  obtain ⟨hi, hb, hf, ht⟩ := h.cost
  constructor
  · rw [ht, Tracker.afterStalls_eq_bubbles, Tracker.bubbles_eq_advanceAll]
    unfold State.entriesOf Tracker.advanceAll
    rw [List.foldl_append]
    split <;> rfl
  · unfold State.entriesOf State.advances
    rw [hi, hb, hf, List.length_append, List.length_replicate]
    split <;> simp only [List.length_cons, List.length_nil] <;> omega

theorem Tracker.advanceAll_bounded {t : Tracker} {entries : List Slot} (h : t.bounded)
    (he : ∀ e ∈ entries, e.cyc ≤ 7 ∧ (e.dest ≠ some .acc → e.cyc ≤ 6)) : (t.advanceAll entries).bounded := by
  induction entries generalizing t with
  | nil => exact h
  | cons e rest ih =>
    obtain ⟨h7, h6⟩ := he e (by simp)
    exact ih (Tracker.advance_bounded h h7 h6) fun e he' => he e (by simp [he'])

/-- R66: every result is available by stage 7, and by stage 6 unless it is MULT's or DIV's. -/
theorem availableAt_le (i : Instr) : i.availableAt ≤ 7 ∧ (i.dest ≠ some .acc → i.availableAt ≤ 6) := by
  cases i <;> simp [Instr.availableAt, Instr.dest]

theorem State.entriesOf_bounded (s : State) (i : Instr) :
    ∀ e ∈ s.entriesOf i, e.cyc ≤ 7 ∧ (e.dest ≠ some .acc → e.cyc ≤ 6) := by
  have hbubble : Slot.bubble.cyc ≤ 7 ∧ (Slot.bubble.dest ≠ some .acc → Slot.bubble.cyc ≤ 6) := by decide
  intro e he
  rcases List.mem_append.1 he with hstall | hrest
  · rwa [List.eq_of_mem_replicate hstall]
  · rcases List.mem_cons.1 hrest with rfl | hflush
    · exact availableAt_le i
    · split at hflush
      · obtain rfl : e = Slot.bubble := by simpa using hflush
        exact hbubble
      · simp at hflush

/-! ### The invariant -/

/-- The cell behind register 0 is no instruction's to write (R11). -/
theorem State.Frame.zeroCell (h : s.Frame i t) : t.regs[0] = s.regs[0] := by
  rcases h.regs with hr | ⟨d, v, -, hr⟩
  · rw [hr]
  · rw [hr, State.writeReg_zeroCell]

/-- A store at a valid address keeps the form of data memory and stays in its region (R16, R31). -/
theorem State.memHeld_write {ea : Word} (v : Word) (hp : s.params.dmemFits) (hm : s.memHeld)
    (hb : s.badAddress ea = none) :
    (s.dmem.write (s.wordIndex ea) v).wf ∧ s.params.holds (s.dmem.write (s.wordIndex ea) v) := by
  refine ⟨Memory.write_wf _ _ hm.1, fun c hc => ?_⟩
  rcases Memory.mem_write hc with ⟨rfl, -⟩ | hold
  · exact (s.wordIndex_valid ea hp hb).1
  · exact hm.2 c hold

theorem State.Frame.memHeld (h : s.Frame i t) (hp : s.params.dmemFits) (hm : s.memHeld) : t.memHeld := by
  unfold State.memHeld
  rw [h.params]
  rcases h.dmem with hd | ⟨rt, rs, imm, -, hb, hd⟩
  · rw [hd]; exact hm
  · rw [hd]; exact State.memHeld_write _ hp hm hb

/-- An instruction that retires records no fatal condition. -/
theorem State.Frame.not_faulted (h : s.Frame i t) (hr : s.status = .running) (f : Fatal) : t.status ≠ .faulted f := by
  rcases h.status with hs | ⟨hs, -⟩
  · rw [hs, hr]; nofun
  · rw [hs]; nofun

theorem State.Retired.inv (h : s.Retired i t) (hr : s.status = .running) (hs : s.Inv) : t.Inv where
  params := h.params ▸ hs.params
  zero := h.zeroCell.trans hs.zero
  tracker := h.entries.1 ▸ Tracker.advanceAll_bounded hs.tracker (s.entriesOf_bounded i)
  memory := h.memHeld hs.params.1 hs.memory
  fault := fun f hf => absurd hf (h.not_faulted hr f)

theorem State.withFatal_inv {f : Fatal} (hf : f.pc = s.pc) (hs : s.Inv) : (s.withFatal f).Inv :=
  { hs with fault := fun g hg => by cases hg; exact hf }

theorem State.supplyInput_inv (vs : List Word) (hs : s.Inv) : (s.supplyInput vs).Inv :=
  { hs with }

/-- Settles O13: an instruction that retires keeps each part of the invariant, and a fatal condition records the `pc`
it is raised at. -/
theorem stepKeepsInvariant : Obligations.StepKeepsInvariant := by
  intro s t hs h
  rcases step_outcome h with ⟨i, hr, -, hret⟩ | ⟨f, -, hf, rfl⟩ | ⟨rfl, -⟩
  · exact hret.inv hr hs
  · exact State.withFatal_inv hf hs
  · exact hs

/-- Settles O14, by induction on the run. -/
theorem reachableStatesMeetInvariant : Obligations.ReachableStatesMeetInvariant := by
  intro p s hp hreach
  induction hreach with
  | start => exact State.start_inv hp
  | step _ hstep ih => exact stepKeepsInvariant _ _ ih hstep
  | input vs _ ih => exact State.supplyInput_inv vs ih

/-! ### The other rules of a step -/

/-- Settles O20: TRAP.HALT halts, an instruction that retires leaves no fatal condition, and a step that raises one is
the only other that changes the status. -/
theorem runStatusRule : Obligations.RunStatusRule := by
  intro s t h
  refine ⟨step_stopped h, fun hr => ⟨⟨fun hh => ?_, fun hi => ?_⟩, ⟨fun ⟨f, hf⟩ => ?_, fun ⟨f, hf⟩ => ?_⟩⟩⟩
  · rcases step_outcome h with ⟨i, -, hi, hret⟩ | ⟨f, -, -, rfl⟩ | ⟨rfl, -⟩
    · rcases hret.status with hs | ⟨-, rfl⟩
      · rw [hs, hr] at hh; cases hh
      · exact hi
    · cases hh
    · rw [hr] at hh; cases hh
  · rw [step_of_nextInstr hr hi, execTrapHalt_eq] at h
    cases h
    rfl
  · rcases step_outcome h with ⟨i, -, -, hret⟩ | ⟨g, -, -, rfl⟩ | ⟨rfl, -⟩
    · exact absurd hf (hret.not_faulted hr f)
    · exact ⟨g, h⟩
    · rw [hr] at hf; cases hf
  · rw [hf] at h
    cases h
    exact ⟨f, rfl⟩

/-- R27: a step changes no parameter. -/
theorem step_params (h : step s = .next t) : t.params = s.params := by
  rcases step_outcome h with ⟨i, -, -, hret⟩ | ⟨f, -, -, rfl⟩ | ⟨rfl, -⟩
  · exact hret.params
  · rfl
  · rfl

/-- R41: fetch reads the parameters and the `pc` and nothing else. -/
theorem State.ifetch_setPc_congr (hp : t.params = s.params) (pc : Word) :
    (t.setPc pc).ifetch = (s.setPc pc).ifetch := by
  unfold State.ifetch
  rw [State.setPc_params, State.setPc_params, hp]
  rfl

/-- Settles O22: a fetch depends on the parameters, and no step changes them. -/
theorem inputsAndImageNeverChange : Obligations.InputsAndImageNeverChange := fun _ _ h =>
  ⟨step_params h, State.ifetch_setPc_congr (step_params h)⟩

/-- Settles O23, outcome by outcome of the step. -/
theorem programCounterRule : Obligations.ProgramCounterRule := by
  intro s t _ h
  rcases step_outcome h with ⟨i, -, hi, hret⟩ | ⟨f, -, -, rfl⟩ | ⟨rfl, -⟩
  · obtain ⟨hcount, -⟩ := hret.cost
    exact .inl ⟨i, hi, hcount, hret.pc⟩
  · exact .inr ⟨rfl, rfl⟩
  · exact .inr ⟨rfl, rfl⟩

/-- Settles O27: the one instruction whose frame lets data memory change is SW, and its write is the word read
differently. -/
theorem dataMemoryOnlyByStore : Obligations.DataMemoryOnlyByStore := by
  intro s t hw h hne
  have unchanged : t.dmem ≠ s.dmem := fun he => hne fun k => by unfold State.dmemWord; rw [he]
  rcases step_outcome h with ⟨i, -, hi, hret⟩ | ⟨f, -, -, rfl⟩ | ⟨rfl, -⟩
  · rcases hret.dmem with hd | ⟨rt, rs, imm, rfl, hb, hd⟩
    · exact absurd hd unchanged
    · refine ⟨rt, rs, imm, hi, (s.badAddress_none_iff _).1 hb, fun j hj => ?_⟩
      unfold State.dmemWord
      rw [hd, Memory.read_write _ _ _ _ hw, if_neg hj.symm]
  · exact absurd rfl unchanged
  · exact absurd rfl unchanged

/-- A step records as many entries as it counts cycles (R73). -/
theorem step_entries (h : step s = .next t) :
    ∃ entries : List Slot, t.tracker = s.tracker.advanceAll entries ∧ t.advances = s.advances + entries.length := by
  rcases step_outcome h with ⟨i, -, -, hret⟩ | ⟨f, -, -, rfl⟩ | ⟨rfl, -⟩
  · exact ⟨_, hret.entries⟩
  · exact ⟨[], rfl, rfl⟩
  · exact ⟨[], rfl, rfl⟩

/-- R24, with the pipeline-fill constant's value. -/
theorem State.totalCycles_eq (s : State) : s.totalCycles = s.instructions + 7 + s.bubbles + s.flushes := rfl

/-- Settles O36: the entries recorded are the `Advance` calls. -/
theorem oneAdvancePerCycle : Obligations.OneAdvancePerCycle := fun _ t h =>
  ⟨step_entries h, t.totalCycles_eq⟩

/-- Each counter by itself only grows (R20). -/
theorem step_counters (h : step s = .next t) :
    s.instructions ≤ t.instructions ∧ s.bubbles ≤ t.bubbles ∧ s.flushes ≤ t.flushes := by
  rcases step_outcome h with ⟨i, -, -, hret⟩ | ⟨f, -, -, rfl⟩ | ⟨rfl, -⟩
  · obtain ⟨hi, hb, hf, -⟩ := hret.cost
    omega
  · exact ⟨le_rfl, le_rfl, le_rfl⟩
  · exact ⟨le_rfl, le_rfl, le_rfl⟩

/-- Settles O39: the total is a sum of counters that only grow. -/
theorem countersNeverDecrease : Obligations.CountersNeverDecrease := by
  intro s t h
  obtain ⟨hi, hb, hf⟩ := step_counters h
  refine ⟨hi, hb, hf, ?_, step_stopped h⟩
  rw [State.totalCycles_eq, State.totalCycles_eq]
  omega

/-- Settles O11: the registers by `State.start_reg`, the rest by the definition of a start. -/
theorem startOfRunValues : Obligations.StartOfRunValues := by
  intro p
  have hslot : ∀ i : Fin 8, Tracker.empty[i] = ⟨none, 0⟩ := by decide
  refine ⟨?_, ?_, fun r h28 h29 => ?_, rfl, rfl, rfl, rfl, hslot, rfl, rfl, rfl, rfl, rfl⟩
  · rw [State.start_reg, if_pos rfl]
  · rw [State.start_reg, if_neg (by decide), if_pos rfl]
  · rw [State.start_reg, if_neg h28, if_neg h29]

end Sys2Proof.Machine
end

section
/-! What an instruction reads and writes of the registers (`10_state.md` R13) and of the accumulators (R14): its frame, and
that a preset it does not read changes nothing it does. -/

namespace Sys2Proof.Machine

variable {s t : State} {i : Instr}

/-! ### What is written -/

theorem State.Frame.reg_eq (h : s.Frame i t) {r : Reg} (hr : i.dest ≠ some (.gpr r)) : t.reg r = s.reg r := by
  rcases h.regs with hregs | ⟨d, v, hd, hregs⟩
  · exact State.sameRegs_of_regs hregs r
  · exact (State.wroteReg_of_regs hregs).2 r fun e => hr (e ▸ hd)

/-- A write to register 0 is discarded, so an instruction with that destination changes no register (R11). -/
theorem State.Frame.sameRegs_of_dest_zero (h : s.Frame i t) (hd : i.dest = some (.gpr 0)) : s.sameRegs t := by
  intro r
  by_cases hr : r = 0
  · rw [hr, State.reg_zero, State.reg_zero]
  · exact h.reg_eq fun e => hr (by simpa [hd, eq_comm] using e)

/-- Settles O24: the register part of the frame, and nothing where the instruction does not retire. -/
theorem onlyTheDestinationRegisterChanges : Obligations.OnlyTheDestinationRegisterChanges := by
  intro i s t h
  rcases exec_cases h with hret | ⟨f, -, rfl⟩ | ⟨rfl, -, -⟩
  · exact ⟨fun r => hret.reg_eq, hret.sameRegs_of_dest_zero⟩
  · exact ⟨fun _ _ => rfl, fun _ _ => rfl⟩
  · exact ⟨fun _ _ => rfl, fun _ _ => rfl⟩

/-- R14: only MULT and DIV write an accumulator. -/
theorem exec_acc_written (h : exec i s = .next t) (hne : t.hi ≠ s.hi ∨ t.lo ≠ s.lo) :
    ∃ rs rt, i = .mult rs rt ∨ i = .div rs rt := by
  rcases exec_cases h with hret | ⟨f, -, rfl⟩ | ⟨rfl, -, -⟩
  · rcases hret.acc with ⟨hh, hl⟩ | hi
    · simp [hh, hl] at hne
    · exact hi
  · simp at hne
  · simp at hne

/-! ### What is read: presets -/

/-- `i` does not read what `preset` sets, tracker index `d`: run on the preset state it leaves what it left without, either
`t` itself, having overwritten the preset, or `t` preset likewise. -/
def Ignores (i : Instr) (d : TrackIdx) (preset : State → State) (s t : State) : Prop :=
  (exec i (preset s) = .next t ∧ i.dest = some d ∧ t.instructions = s.instructions + 1) ∨
  (exec i (preset s) = .next (preset t) ∧ (i.dest = some d → t.instructions = s.instructions))

/-! ### Accumulator presets -/

/-- An instruction that is neither MFHI nor MFLO does not read the accumulators (R14). -/
theorem ignores_writeAcc (hi : ∀ rd, i ≠ .mfhi rd ∧ i ≠ .mflo rd) (h : exec i s = .next t) (hv lv : Word) :
    Ignores i .acc (·.writeAcc hv lv) s t := by
  cases i with
  | mfhi rd => exact absurd rfl (hi rd).1
  | mflo rd => exact absurd rfl (hi rd).2
  | mult rs rt =>
    cases h
    exact .inl ⟨rfl, rfl, rfl⟩
  | div rs rt =>
    rcases execDiv_cases h with ⟨hz, rfl⟩ | ⟨hz, rfl⟩
    · exact .inr ⟨execDiv_zero hz, fun _ => rfl⟩
    · exact .inl ⟨execDiv_nonzero hz, rfl, rfl⟩
  | beq rs rt imm =>
    rcases execBeq_cases h with ⟨he, rfl⟩ | ⟨hne, rfl⟩
    · exact .inr ⟨execBeq_taken he, nofun⟩
    · exact .inr ⟨execBeq_untaken hne, nofun⟩
  | bne rs rt imm =>
    rcases execBne_cases h with ⟨hne, rfl⟩ | ⟨he, rfl⟩
    · exact .inr ⟨execBne_taken hne, nofun⟩
    · exact .inr ⟨execBne_untaken he, nofun⟩
  | lw rt rs imm =>
    rcases execLw_cases h with ⟨r, hb, rfl⟩ | ⟨hb, rfl⟩
    · exact .inr ⟨execLw_invalid hb, nofun⟩
    · exact .inr ⟨execLw_valid hb, nofun⟩
  | sw rt rs imm =>
    rcases execSw_cases h with ⟨r, hb, rfl⟩ | ⟨hb, rfl⟩
    · exact .inr ⟨execSw_invalid hb, nofun⟩
    · exact .inr ⟨execSw_valid hb, nofun⟩
  | trapRead rt =>
    rcases execTrapRead_cases h with ⟨hc, rfl⟩ | ⟨v, rest, hc, rfl⟩
    · exact .inr ⟨execTrapRead_empty hc, nofun⟩
    · exact .inr ⟨execTrapRead_answered hc, nofun⟩
  | sll | srl | sra | addu | subu | slt | addiu | andi | lui | j | jal | jr | trapNl | trapPrint | trapHalt =>
    cases h
    exact .inr ⟨rfl, nofun⟩

/-- The destination of MULT and DIV, and of nothing else, is the accumulators (R155). -/
theorem mult_or_div_of_dest_acc (hd : i.dest = some .acc) : ∃ rs rt, i = .mult rs rt ∨ i = .div rs rt := by
  cases i with
  | mult rs rt => exact ⟨rs, rt, .inl rfl⟩
  | div rs rt => exact ⟨rs, rt, .inr rfl⟩
  | _ => cases hd

/-- Settles O26: the accumulator part of the frame, and an accumulator preset overwritten or carried along. -/
theorem accumulatorsOnlyByTheirFourInstructions : Obligations.AccumulatorsOnlyByTheirFourInstructions := by
  intro i s t h
  refine ⟨exec_acc_written h, fun hi hv lv => ?_⟩
  rcases ignores_writeAcc hi h hv lv with ⟨ht, hd, hcount⟩ | ⟨ht, hcount⟩
  · refine ⟨t, ht, rfl, fun _ _ _ => ⟨rfl, rfl⟩, ?_⟩
    rintro (hother | hstuck)
    · obtain ⟨rs, rt, hmd⟩ := mult_or_div_of_dest_acc hd
      exact absurd hmd (not_or.2 (hother rs rt))
    · omega
  · refine ⟨t.writeAcc hv lv, ht, rfl, fun rs rt hi => ?_, fun _ => ⟨rfl, rfl⟩⟩
    rcases hi with rfl | ⟨rfl, hretired⟩
    · cases h
      simpa using hcount rfl
    · have := hcount rfl
      omega

/-! ### Register presets -/

/-- A second write to a register leaves nothing of the first. -/
theorem State.writeReg_writeReg_same (s : State) (r : Reg) (v w : Word) :
    (s.writeReg r v).writeReg r w = s.writeReg r w := by
  by_cases hr : r = 0 <;> simp [State.writeReg, hr]

/-- Writes to different registers commute. -/
theorem State.writeReg_comm (s : State) {r d : Reg} (v w : Word) (h : d ≠ r) :
    (s.writeReg r v).writeReg d w = (s.writeReg d w).writeReg r v := by
  have hval : r.val ≠ d.val := fun e => h (Fin.ext e.symm)
  by_cases hr : r = 0 <;> by_cases hd : d = 0 <;> simp [State.writeReg, hr, hd, Vector.set_comm _ _ hval]

section Presets

variable {u : State} {r d : Reg} {v w : Word}

/-- A preset is overwritten by a write of that register, and carried along by a write of another. What follows the write
(`finish`) only has to leave the registers alone. -/
theorem ignores_of_write (finish : State → State) (hd : i.dest = some (.gpr d))
    (hcount : (finish (u.writeReg d w)).instructions = s.instructions + 1)
    (hcarry : finish ((u.writeReg d w).writeReg r v) = (finish (u.writeReg d w)).writeReg r v)
    (h : exec i (s.writeReg r v) = .next (finish ((u.writeReg r v).writeReg d w))) :
    Ignores i (.gpr r) (·.writeReg r v) s (finish (u.writeReg d w)) := by
  by_cases hdr : d = r
  · subst hdr
    rw [State.writeReg_writeReg_same] at h
    exact .inl ⟨h, hd, hcount⟩
  · rw [State.writeReg_comm _ _ _ hdr, hcarry] at h
    exact .inr ⟨h, fun hd' => absurd (by simpa [hd] using hd') hdr⟩

/-- The same for an instruction that goes on at `pc + 4`. -/
theorem ignores_of_finishReg {a : Nat} (hd : i.dest = some (.gpr d)) (hcount : u.instructions = s.instructions)
    (h : exec i (s.writeReg r v) = (u.writeReg r v).finishReg d w a) :
    Ignores i (.gpr r) (·.writeReg r v) s (((u.writeReg d w).retire (some (.gpr d)) a).advancePc) :=
  ignores_of_write (fun x => (x.retire (some (.gpr d)) a).advancePc) hd (congrArg (· + 1) hcount) rfl h

/-- A transfer with no destination carries every preset along. -/
theorem ignores_of_finishTransfer {target : Word} (hd : i.dest = none)
    (h : exec i (s.writeReg r v) = (u.writeReg r v).finishTransfer none 0 target) :
    Ignores i (.gpr r) (·.writeReg r v) s (((u.retire none 0).flush).setPc target) :=
  .inr ⟨h, fun hd' => by simp [hd] at hd'⟩

/-- An instruction does not read a general register that its row of R13's table does not. In each case the operands are
first written as the preset state reads them. -/
theorem ignores_writeReg (hr : r ∉ i.reads) (h : exec i s = .next t) (v : Word) :
    Ignores i (.gpr r) (·.writeReg r v) s t := by
  have hread : ∀ q ∈ i.reads, (s.writeReg r v).reg q = s.reg q := fun q hq =>
    s.writeReg_reg_other r q v fun e => hr (e ▸ hq)
  have hea : ∀ q ∈ i.reads, ∀ imm, (s.writeReg r v).effectiveAddress q imm = s.effectiveAddress q imm :=
    fun q hq imm => congrArg (· + simm imm) (hread q hq)
  cases i with
  | mfhi rd | mflo rd | lui rd imm =>
    cases h
    exact ignores_of_finishReg rfl rfl rfl
  | sll rd p sh | srl rd p sh | sra rd p sh | addiu rd p imm | andi rd p imm =>
    cases h
    rw [← hread p (by simp [Instr.reads])]
    exact ignores_of_finishReg rfl rfl rfl
  | addu rd p q | subu rd p q | slt rd p q =>
    cases h
    rw [← hread p (by simp [Instr.reads]), ← hread q (by simp [Instr.reads])]
    exact ignores_of_finishReg rfl rfl rfl
  | mult p q =>
    cases h
    rw [← hread p (by simp [Instr.reads]), ← hread q (by simp [Instr.reads])]
    exact .inr ⟨rfl, nofun⟩
  | div p q =>
    have hp := hread p (by simp [Instr.reads])
    have hq := hread q (by simp [Instr.reads])
    rcases execDiv_cases h with ⟨hz, rfl⟩ | ⟨hz, rfl⟩
    · rw [← hq] at hz
      exact .inr ⟨execDiv_zero hz, nofun⟩
    · rw [← hq] at hz
      rw [← hp, ← hq]
      exact .inr ⟨execDiv_nonzero hz, nofun⟩
  | jal target =>
    cases h
    exact ignores_of_write (fun x => ((x.retire (some (.gpr 31)) 4).flush).setPc (s.jumpTarget target)) rfl rfl rfl rfl
  | j | trapNl | trapHalt =>
    cases h
    exact .inr ⟨rfl, nofun⟩
  | jr p | trapPrint p =>
    cases h
    rw [← hread p (by simp [Instr.reads])]
    exact .inr ⟨rfl, nofun⟩
  | beq p q imm =>
    have hp := hread p (by simp [Instr.reads])
    have hq := hread q (by simp [Instr.reads])
    rcases execBeq_cases h with ⟨he, rfl⟩ | ⟨hne, rfl⟩
    · rw [← hp, ← hq] at he
      exact ignores_of_finishTransfer rfl (execBeq_taken he)
    · rw [← hp, ← hq] at hne
      exact .inr ⟨execBeq_untaken hne, nofun⟩
  | bne p q imm =>
    have hp := hread p (by simp [Instr.reads])
    have hq := hread q (by simp [Instr.reads])
    rcases execBne_cases h with ⟨hne, rfl⟩ | ⟨he, rfl⟩
    · rw [← hp, ← hq] at hne
      exact ignores_of_finishTransfer rfl (execBne_taken hne)
    · rw [← hp, ← hq] at he
      exact .inr ⟨execBne_untaken he, nofun⟩
  | lw rd p imm =>
    have hp := hea p (by simp [Instr.reads]) imm
    rcases execLw_cases h with ⟨reason, hb, rfl⟩ | ⟨hb, rfl⟩
    · rw [← hp] at hb ⊢
      exact .inr ⟨execLw_invalid hb, fun _ => rfl⟩
    · rw [← hp] at hb ⊢
      exact ignores_of_finishReg rfl rfl (execLw_valid hb)
  | sw q p imm =>
    have hp := hea p (by simp [Instr.reads]) imm
    rcases execSw_cases h with ⟨reason, hb, rfl⟩ | ⟨hb, rfl⟩
    · rw [← hp] at hb ⊢
      exact .inr ⟨execSw_invalid hb, nofun⟩
    · rw [← hp] at hb ⊢
      rw [← hread q (by simp [Instr.reads])]
      exact .inr ⟨execSw_valid hb, nofun⟩
  | trapRead rd =>
    rcases execTrapRead_cases h with ⟨hc, rfl⟩ | ⟨x, rest, hc, rfl⟩
    · exact .inr ⟨execTrapRead_empty hc, fun _ => rfl⟩
    · exact ignores_of_finishReg rfl rfl (execTrapRead_answered hc)

end Presets

/-- Settles O25: the preset is overwritten or carried along. -/
theorem onlyTheNamedRegistersAreRead : Obligations.OnlyTheNamedRegistersAreRead := by
  intro i s t r v hr h
  rcases ignores_writeReg hr h v with ⟨ht, -, -⟩ | ⟨ht, hcount⟩
  · exact ⟨t, ht, rfl, fun _ _ => rfl, fun _ _ => rfl⟩
  · refine ⟨t.writeReg r v, ht, rfl, fun q hq => State.writeReg_reg_other _ _ _ _ hq, fun hd hretired => ?_⟩
    have := hcount hd
    omega

end Sys2Proof.Machine
end

section
/-! The two memories (`20_memory.md`): where a fetch finds a word of the image and which instruction is then run (R38,
R39; `40_step_and_tracker.md` R61), the model's loading of a word at the `pc` (log 4), and what a load reads after a
store (R34, R42). -/

namespace Sys2Proof.Machine

variable {s t : State}

/-! ### Instruction fetch -/

/-- R39: fetch answers no word exactly at an address that is misaligned or outside the image. -/
theorem State.ifetch_eq_none_iff (s : State) : s.ifetch = none ↔ s.outsideImage s.pc := by
  unfold State.ifetch State.outsideImage Params.imemWords
  split
  · next hbad => exact iff_of_true rfl (by omega)
  · next hgood =>
    rw [List.getElem?_eq_none_iff]
    omega

/-- A running core that fetches no word raises the fetch range error (R39). -/
theorem step_of_ifetch_none (hr : s.status = .running) (hf : s.ifetch = none) :
    step s = .next (s.withFatal (.fetchRange s.pc)) := by
  unfold step
  simp only [hr, hf, State.raise_eq]

/-- Word `k` of the image stands at `IMEM_BASE + 4k`, and is the word fetched there (R38, R39). -/
theorem State.ifetch_of_word {k : Nat} {w : Word} (hbase : s.params.imemBase % 4 = 0)
    (hpc : s.pc.toNat = s.params.imemBase + 4 * k) (hw : s.params.imem[k]? = some w) : s.ifetch = some w := by
  have hk : (s.pc.toNat - s.params.imemBase) / 4 = k := by omega
  rw [State.ifetch_eq_some_iff, hk]
  exact ⟨by omega, by omega, hw⟩

/-- Settles O16: no word is fetched exactly outside the image, and a fetched word is the one at the `pc`. -/
theorem fetchRangeRule : Obligations.FetchRangeRule := by
  intro s hr
  refine ⟨fun hout => step_of_ifetch_none hr (s.ifetch_eq_none_iff.2 hout), fun hin => ?_⟩
  obtain ⟨w, hf⟩ := Option.ne_none_iff_exists'.1 (mt s.ifetch_eq_none_iff.1 hin)
  obtain ⟨-, -, hw⟩ := (s.ifetch_eq_some_iff w).1 hf
  exact ⟨w, hf, hw⟩

/-- Settles O15: word `k` is the word fetched, and its instruction is the one run. -/
theorem stepRunsTheDecodedInstruction : Obligations.StepRunsTheDecodedInstruction :=
  fun _ _ _ _ hr hbase hpc hw hd => step_of_decoded hr (State.ifetch_of_word hbase hpc hw) hd

/-! ### The loader -/

theorem State.fetchable_iff (s : State) : s.fetchable = true ↔ ¬ s.outsideImage s.pc := by
  rw [← s.ifetch_eq_none_iff, State.fetchable, Option.isSome_iff_ne_none]

/-- Loading at a `pc` inside the image replaces the word there. -/
theorem State.loadAtPc_inside (w : Word) (h : ¬ s.outsideImage s.pc) :
    s.loadAtPc w = { s with
      status := .running
      params := { s.params with imem := s.params.imem.set ((s.pc.toNat - s.params.imemBase) / 4) w } } :=
  if_pos (s.fetchable_iff.2 h)

/-- Loading at any other `pc` makes an image of the one word, at the `pc` made a multiple of 4. -/
theorem State.loadAtPc_outside (w : Word) (h : s.outsideImage s.pc) :
    s.loadAtPc w = { s with
      status := .running
      pc := alignPc s.pc
      params := { s.params with imemBase := (alignPc s.pc).toNat, imem := [w] } } :=
  if_neg fun hf => s.fetchable_iff.1 hf h

/-- The word loaded at the `pc` is the word the next fetch reads. -/
theorem State.ifetch_loadAtPc (s : State) (w : Word) : (s.loadAtPc w).ifetch = some w := by
  rw [State.ifetch_eq_some_iff]
  by_cases h : s.outsideImage s.pc
  · have haligned := alignPc_toNat s.pc
    rw [State.loadAtPc_outside w h]
    exact ⟨by simp only; omega, le_rfl, by simp⟩
  · rw [State.loadAtPc_inside w h]
    unfold State.outsideImage Params.imemWords at h
    exact ⟨by simp only; omega, by simp only; omega, List.getElem?_set_self (by omega)⟩

/-- Settles O29: the word loaded is the word fetched, so its instruction is the one run; what else changed is read off
from the loaded state, outside the image and inside. -/
theorem placedWordIsTheWordRun : Obligations.PlacedWordIsTheWordRun := by
  rintro s _ nbits w _ i rfl rfl hd
  unfold State.withFetchWord
  generalize BitVec.ofNat 32 (w % 2 ^ nbits) = v at *
  have hfetch := s.ifetch_loadAtPc v
  by_cases hout : s.outsideImage s.pc
  · rw [State.loadAtPc_outside v hout] at hfetch ⊢
    exact ⟨hfetch, step_of_decoded rfl hfetch hd, rfl, rfl, ⟨rfl, rfl⟩, rfl, rfl, rfl, rfl, rfl, ⟨rfl, rfl⟩,
      fun hin => absurd hout hin, fun _ => ⟨alignPc_toNat s.pc, rfl⟩⟩
  · rw [State.loadAtPc_inside v hout] at hfetch ⊢
    exact ⟨hfetch, step_of_decoded rfl hfetch hd, rfl, rfl, ⟨rfl, rfl⟩, rfl, rfl, rfl, rfl, rfl, ⟨rfl, rfl⟩,
      fun _ => ⟨rfl, rfl⟩, fun h => absurd h hout⟩

/-! ### A load after a store -/

variable {rt rs : Reg} {imm : BitVec 16} {a v : Word}

/-- Which addresses are valid is the parameters' to say (R31). -/
theorem State.badAddress_congr (hp : t.params = s.params) (ea : Word) : t.badAddress ea = s.badAddress ea := by
  unfold State.badAddress
  rw [hp]

theorem State.wordIndex_congr (hp : t.params = s.params) (ea : Word) : t.wordIndex ea = s.wordIndex ea := by
  unfold State.wordIndex
  rw [hp]

/-- R34, R42: `LoadWord` after `v` was stored at a valid address `a`. Another valid address is another word. -/
theorem State.loadWord_stored (hw : s.dmem.wf) (hp : t.params = s.params) (ha : s.badAddress a = none)
    (hd : t.dmem = s.dmem.write (s.wordIndex a) v) (ea : Word) :
    t.loadWord ea = if ea = a then .ok v else s.loadWord ea := by
  have hword : ∀ k, t.dmemWord k = if s.wordIndex a = k then v else s.dmemWord k := fun k => by
    unfold State.dmemWord
    rw [hd, Memory.read_write _ _ _ _ hw]
  split
  · next heq =>
    subst heq
    rw [t.loadWord_valid ea ((State.badAddress_congr hp ea).trans ha), State.wordIndex_congr hp, hword, if_pos rfl]
  · next hne =>
    rw [State.loadWord_eq, State.loadWord_eq, State.badAddress_congr hp, State.wordIndex_congr hp]
    cases hb : s.badAddress ea with
    | some reason => rfl
    | none => rw [hword, if_neg (s.wordIndex_injective a ea ha hb (Ne.symm hne))]

/-- SW at a valid address stores the register there, and changes no parameter (R106). -/
theorem execSw_stores (ha : s.badAddress (s.effectiveAddress rs imm) = none) (h : exec (.sw rt rs imm) s = .next t) :
    t.params = s.params ∧ t.dmem = s.dmem.write (s.wordIndex (s.effectiveAddress rs imm)) (s.reg rt) := by
  rw [execSw_valid ha] at h
  cases h
  exact ⟨rfl, rfl⟩

/-- LW into a register other than 0 leaves there what `LoadWord` answers (R105). -/
theorem execLw_reads (hrt : rt ≠ 0) (h : s.loadWord (s.effectiveAddress rs imm) = .ok v) :
    ∃ u, exec (.lw rt rs imm) s = .next u ∧ u.reg rt = v := by
  simp only [exec, execLw, h, State.finishReg_eq]
  exact ⟨_, rfl, by simp [State.writeReg_reg_same, hrt]⟩

/-- Settles O51: the store decides every `LoadWord` after it, and with it the very next LW. -/
theorem loadSeesTheLatestStore : Obligations.LoadSeesTheLatestStore := by
  intro rt rs imm s t hw hvalid h
  have ha := (s.badAddress_none_iff _).2 hvalid
  obtain ⟨hp, hd⟩ := execSw_stores ha h
  have hload := State.loadWord_stored hw hp ha hd
  have hsame : t.loadWord (s.effectiveAddress rs imm) = .ok (s.reg rt) := by rw [hload, if_pos rfl]
  refine ⟨hsame, fun ea hne => by rw [hload, if_neg hne], fun rt' rs' imm' hea hrt => ?_⟩
  exact execLw_reads hrt (hea ▸ hsame)

end Sys2Proof.Machine
end

section
/-! The Decoder and the encoder against each other and against the opcode table (`30_encoding.md` R46 to R53). An
instruction is its form, which is its row of the table, and its operands, which are fields of its word: `Instr.reread`
keeps the form and reads the operands again, and each statement is put together from what `reread` does under `encode`
and `decode`. -/

namespace Sys2Proof

variable {te : TrapEncoding} {w w' : Word} {i : Instr} {f f' : Fields}

/-! ### An instruction's form, with the operands of a word -/

/-- The instruction of the same form whose operands are read from these fields (R49, R50). -/
def Instr.reread (f : Fields) : Instr → Instr
  | .sll _ _ _ => .sll (regOf f.rd) (regOf f.rt) f.shamt.toFin
  | .srl _ _ _ => .srl (regOf f.rd) (regOf f.rt) f.shamt.toFin
  | .sra _ _ _ => .sra (regOf f.rd) (regOf f.rt) f.shamt.toFin
  | .jr _ => .jr (regOf f.rs)
  | .mfhi _ => .mfhi (regOf f.rd)
  | .mflo _ => .mflo (regOf f.rd)
  | .mult _ _ => .mult (regOf f.rs) (regOf f.rt)
  | .div _ _ => .div (regOf f.rs) (regOf f.rt)
  | .addu _ _ _ => .addu (regOf f.rd) (regOf f.rs) (regOf f.rt)
  | .subu _ _ _ => .subu (regOf f.rd) (regOf f.rs) (regOf f.rt)
  | .slt _ _ _ => .slt (regOf f.rd) (regOf f.rs) (regOf f.rt)
  | .j _ => .j f.target26
  | .jal _ => .jal f.target26
  | .beq _ _ _ => .beq (regOf f.rs) (regOf f.rt) f.imm16
  | .bne _ _ _ => .bne (regOf f.rs) (regOf f.rt) f.imm16
  | .addiu _ _ _ => .addiu (regOf f.rt) (regOf f.rs) f.imm16
  | .andi _ _ _ => .andi (regOf f.rt) (regOf f.rs) f.imm16
  | .lui _ _ => .lui (regOf f.rt) f.imm16
  | .lw _ _ _ => .lw (regOf f.rt) (regOf f.rs) f.imm16
  | .sw _ _ _ => .sw (regOf f.rt) (regOf f.rs) f.imm16
  | .trapNl => .trapNl
  | .trapPrint _ => .trapPrint (regOf f.rs)
  | .trapRead _ => .trapRead (regOf f.rt)
  | .trapHalt => .trapHalt

@[simp] theorem Instr.row_reread (te : TrapEncoding) (f : Fields) (i : Instr) : (i.reread f).row te = i.row te := by
  cases i <;> rfl

@[simp] theorem Instr.reread_reread (f f' : Fields) (i : Instr) : (i.reread f).reread f' = i.reread f' := by
  cases i <;> rfl

/-- The encoder puts every operand where `reread` looks for it. -/
@[simp] theorem reread_encode (te : TrapEncoding) (i : Instr) : i.reread (fields (encode te i)) = i := by
  cases i
  case j | jal => simp [Instr.reread, encode, fields_jumpWord]
  case beq | bne | addiu | andi | lui | lw | sw => simp [Instr.reread, encode, fields_immediateWord]
  case trapNl | trapPrint | trapRead | trapHalt => simp [Instr.reread, encode, fields_trapWord]
  all_goals simp [Instr.reread, encode, fields_registerWord]

/-! ### The dispatch bits are used bits -/

theorem usedBits_and_mask (te : TrapEncoding) (i : Instr) : i.usedBits te &&& (i.row te).mask = (i.row te).mask := by
  unfold Instr.usedBits
  ext k hk
  rw [BitVec.getElem_and, BitVec.getElem_or, Bool.and_eq_right_iff_imp, Bool.or_eq_true]
  exact Or.inl

/-- Dispatch looks at used bits only (R49). -/
theorem selects_iff_used (te : TrapEncoding) (i : Instr) (w : Word) :
    (i.row te).selects w ↔ (i.row te).selects (w &&& i.usedBits te) := by
  unfold Row.selects
  rw [BitVec.and_assoc, usedBits_and_mask]

/-! ### Encoding what was read -/

/-- The bits of a 5-bit field that a form uses: all of them or none. -/
def fieldMask (used : Bool) : BitVec 5 := bif used then BitVec.allOnes 5 else 0

/-- The operand a form reads from a field, or the zero its word holds there. -/
def operand (used : Bool) (field : BitVec 5) : Reg := bif used then regOf field else 0

@[simp] theorem and_fieldMask (field : BitVec 5) (used : Bool) :
    field &&& fieldMask used = fieldOf (operand used field) := by
  cases used with
  | false => exact BitVec.and_zero
  | true => exact BitVec.and_allOnes

/-- Format R, whichever of the four operand fields the form uses. -/
theorem registerWord_operands {name : String} {fn : BitVec 6} (h : (registerRow name fn).selects w)
    (rs rt rd sh : Bool) :
    registerWord (operand rs (fields w).rs) (operand rt (fields w).rt) (operand rd (fields w).rd)
        (operand sh (fields w).shamt) fn =
      w &&& (BitVec.allOnes 6 ++ fieldMask rs ++ fieldMask rt ++ fieldMask rd ++ fieldMask sh ++
        BitVec.allOnes 6) := by
  obtain ⟨hop, hfn⟩ := (registerRow_selects name fn w).1 h
  conv_rhs => rw [word_join_register w]
  iterate 5 rw [BitVec.and_append]
  simp only [and_fieldMask, BitVec.and_allOnes, hop, hfn, registerWord]

/-- Format I, with or without the operand in `rs`. -/
theorem immediateWord_operands {name : String} {op : BitVec 6} (h : (primaryRow name op).selects w) (rs : Bool) :
    immediateWord op (operand rs (fields w).rs) (regOf (fields w).rt) (fields w).imm16 =
      w &&& (BitVec.allOnes 6 ++ fieldMask rs ++ fieldMask true ++ BitVec.allOnes 16) := by
  have hop := (primaryRow_selects name op w).1 h
  conv_rhs => rw [word_join_immediate w]
  iterate 3 rw [BitVec.and_append]
  simp only [and_fieldMask, BitVec.and_allOnes, hop, immediateWord, operand, cond_true]

/-- Format J, which uses every bit. -/
theorem jumpWord_operands {name : String} {op : BitVec 6} (h : (primaryRow name op).selects w) :
    jumpWord op (fields w).target26 = w &&& BitVec.allOnes 32 := by
  rw [← (primaryRow_selects name op w).1 h, BitVec.and_allOnes]
  exact (word_join_op_target w).symm

/-- Format T, whichever of the two operand fields the form uses. -/
theorem trapWord_operands {name : String} {op : BitVec 6} {code : BitVec 4} (h : (trapRow name op code).selects w)
    (rs rt : Bool) :
    trapWord op (operand rs (fields w).rs) (operand rt (fields w).rt) code =
      w &&& (BitVec.allOnes 6 ++ fieldMask rs ++ fieldMask rt ++ 0#12 ++ BitVec.allOnes 4) := by
  obtain ⟨hop, hcode⟩ := (trapRow_selects name op code w).1 h
  conv_rhs => rw [word_join_trap w]
  iterate 4 rw [BitVec.and_append]
  simp only [and_fieldMask, BitVec.and_allOnes, BitVec.and_zero, hop, hcode, trapWord]

/-- R49: of a word that selects the row of a form, the used bits are the form's dispatch bits and its operands. -/
theorem encode_reread (h : (i.row te).selects w) : encode te (i.reread (fields w)) = w &&& i.usedBits te := by
  cases i
  case' sll | srl | sra => refine (registerWord_operands h false true true true).trans ?_
  case' jr => refine (registerWord_operands h true false false false).trans ?_
  case' mfhi | mflo => refine (registerWord_operands h false false true false).trans ?_
  case' mult | div => refine (registerWord_operands h true true false false).trans ?_
  case' addu | subu | slt => refine (registerWord_operands h true true true false).trans ?_
  case' j | jal => refine (jumpWord_operands h).trans ?_
  case' beq | bne | addiu | andi | lw | sw => refine (immediateWord_operands h true).trans ?_
  case' lui => refine (immediateWord_operands h false).trans ?_
  case' trapNl | trapHalt => refine (trapWord_operands h false false).trans ?_
  case' trapPrint => refine (trapWord_operands h true false).trans ?_
  case' trapRead => refine (trapWord_operands h false true).trans ?_
  all_goals
    congr 1
    simp only [Instr.usedBits, Instr.row, registerRow, primaryRow, trapRow]
    decide

/-! ### Decoding, form by form -/

/-- The register-format family decodes by its function code alone (R49). -/
theorem decodeRegister_form (te : TrapEncoding) (h : decodeRegister f = .instr i) :
    (∀ w, (i.row te).selects w ↔ (fields w).op = 0#6 ∧ (fields w).funct = f.funct) ∧
    ∀ f', f'.funct = f.funct → decodeRegister f' = .instr (i.reread f') := by
  rcases decodeRegister_inv h with ⟨hf, rfl⟩ | ⟨hf, rfl⟩ | ⟨hf, rfl⟩ | ⟨hf, rfl⟩ | ⟨hf, rfl⟩ | ⟨hf, rfl⟩ | ⟨hf, rfl⟩ |
    ⟨hf, rfl⟩ | ⟨hf, rfl⟩ | ⟨hf, rfl⟩ | ⟨hf, rfl⟩
  all_goals
    rw [hf]
    exact ⟨registerRow_selects _ _, fun f' hf' => by simp [decodeRegister, hf', Instr.reread]⟩

/-- The trap family decodes by its trap code alone. -/
theorem decodeTrap_form (h : decodeTrap te f = .instr i) :
    (∀ w, (i.row te).selects w ↔ (fields w).op = te.opcode ∧ (fields w).code4 = f.code4) ∧
    ∀ f', f'.code4 = f.code4 → decodeTrap te f' = .instr (i.reread f') := by
  refine ⟨?_, fun f' hf' => ?_⟩
  · rcases decodeTrap_inv h with ⟨hf, rfl⟩ | ⟨hf, rfl⟩ | ⟨hf, rfl⟩ | ⟨hf, rfl⟩
    all_goals exact hf ▸ trapRow_selects _ _ _
  · unfold decodeTrap at h ⊢
    rw [hf']
    split_ifs at h ⊢ <;> cases h <;> rfl

/-- The family of the nine other opcodes decodes by the opcode alone. -/
theorem decodePrimary_form (te : TrapEncoding) (h : decodePrimary f = .instr i) :
    (∀ w, (i.row te).selects w ↔ (fields w).op = f.op) ∧
    ∀ f', f'.op = f.op → decodePrimary f' = .instr (i.reread f') := by
  rcases decodePrimary_inv h with ⟨hf, rfl⟩ | ⟨hf, rfl⟩ | ⟨hf, rfl⟩ | ⟨hf, rfl⟩ | ⟨hf, rfl⟩ | ⟨hf, rfl⟩ | ⟨hf, rfl⟩ |
    ⟨hf, rfl⟩ | ⟨hf, rfl⟩
  all_goals
    rw [hf]
    exact ⟨primaryRow_selects _ _, fun f' hf' => by simp [decodePrimary, hf', Instr.reread]⟩

/-- R50: a word that decodes to an instruction selects the instruction's row, and every word that selects this row
decodes to the same form with its own operands. No constraint of R7 is needed: the order of the tests decides alike for
both words. -/
theorem decode_form (h : decode te w = .instr i) :
    (i.row te).selects w ∧ ∀ w', (i.row te).selects w' → decode te w' = .instr (i.reread (fields w')) := by
  rcases decode_inv h with ⟨hop, h⟩ | ⟨h0, hop, h⟩ | ⟨h0, ht, h⟩
  · obtain ⟨hrow, hread⟩ := decodeRegister_form te h
    refine ⟨(hrow w).2 ⟨hop, rfl⟩, fun w' hw' => ?_⟩
    obtain ⟨hop', hfn⟩ := (hrow w').1 hw'
    rw [decode_of_register hop', hread _ hfn]
  · obtain ⟨hrow, hread⟩ := decodeTrap_form h
    refine ⟨(hrow w).2 ⟨hop, rfl⟩, fun w' hw' => ?_⟩
    obtain ⟨hop', hcode⟩ := (hrow w').1 hw'
    simp only [decode, hop', if_neg (hop ▸ h0), if_true, hread _ hcode]
  · obtain ⟨hrow, hread⟩ := decodePrimary_form te h
    refine ⟨(hrow w).2 rfl, fun w' hw' => ?_⟩
    have hop' := (hrow w').1 hw'
    simp only [decode, hop', if_neg h0, if_neg ht, hread _ hop']

/-- An instruction decoded from a word has the operands of the word. -/
theorem reread_of_decode (h : decode te w = .instr i) : i.reread (fields w) = i := by
  obtain ⟨hrow, hread⟩ := decode_form h
  exact Decoded.instr.inj ((hread w hrow).symm.trans h)

/-- Settles O3: the operands of a decoded word are its own, and encoding them keeps the used bits. -/
theorem encodeKeepsExactlyTheUsedBits : Obligations.EncodeKeepsExactlyTheUsedBits := by
  intro te w i h
  rw [← encode_reread (decode_form h).1, reread_of_decode h]

/-- The operands of a form are read from its used bits. -/
theorem reread_used (h : (i.row te).selects w) : i.reread (fields (w &&& i.usedBits te)) = i.reread (fields w) := by
  rw [← encode_reread h]
  simpa using reread_encode te (i.reread (fields w))

/-- Settles O4: dispatch and operands both look at used bits only. -/
theorem ignoredBitsNeverMatter : Obligations.IgnoredBitsNeverMatter := by
  intro te w w' i h hused
  obtain ⟨hrow, hread⟩ := decode_form h
  have hrow' : (i.row te).selects w' := by rwa [selects_iff_used, hused, ← selects_iff_used]
  rw [hread w' hrow', ← reread_used hrow', hused, reread_used hrow, reread_of_decode h]

/-! ### The opcode table -/

/-- One instruction of each form, in the order of R50. -/
def Instr.forms : List Instr :=
  [.sll 0 0 0, .srl 0 0 0, .sra 0 0 0, .jr 0, .mfhi 0, .mflo 0, .mult 0 0, .div 0 0, .addu 0 0 0, .subu 0 0 0,
    .slt 0 0 0, .j 0, .jal 0, .beq 0 0 0, .bne 0 0 0, .addiu 0 0 0, .andi 0 0 0, .lui 0 0, .lw 0 0 0, .sw 0 0 0,
    .trapNl, .trapPrint 0, .trapRead 0, .trapHalt]

theorem opcodeTable_eq_forms (te : TrapEncoding) : opcodeTable te = Instr.forms.map (Instr.row te) := rfl

/-- R50: the rows of the table are the rows of the 24 forms. -/
theorem mem_opcodeTable_iff {r : Row} : r ∈ opcodeTable te ↔ ∃ i : Instr, i.row te = r := by
  constructor
  · rw [opcodeTable_eq_forms, List.mem_map]
    rintro ⟨i, -, hi⟩
    exact ⟨i, hi⟩
  · rintro ⟨i, rfl⟩
    cases i <;> simp [opcodeTable, Instr.row]

/-- R50: under R7's constraints a word that selects the row of a form decodes to that form, with its own operands. -/
theorem decode_of_selects (hte : te.wf) (h : (i.row te).selects w) : decode te w = .instr (i.reread (fields w)) := by
  obtain ⟨hnp, hnr, hnh, hpr, hph, hrh⟩ := TrapEncoding.wf_codes hte
  cases i
  case j | jal | beq | bne | addiu | andi | lui | lw | sw =>
    have hop := (primaryRow_selects _ _ w).1 h
    rw [decode_of_primary hte (by rw [hop]; decide) (by rw [hop]; decide)]
    simp [decodePrimary, hop, Instr.reread]
  case trapNl | trapPrint | trapRead | trapHalt =>
    obtain ⟨hop, hcode⟩ := (trapRow_selects _ _ _ w).1 h
    rw [decode_of_trap hte hop]
    simp [decodeTrap, hcode, Instr.reread, hnp.symm, hnr.symm, hnh.symm, hpr.symm, hph.symm, hrh.symm]
  all_goals
    obtain ⟨hop, hfn⟩ := (registerRow_selects _ _ w).1 h
    rw [decode_of_register hop]
    simp [decodeRegister, hfn, Instr.reread]

/-- Settles O2: the word of an instruction selects the instruction's row, and the operands are where the encoder put
them. -/
theorem decodeEncodeRoundTrip : Obligations.DecodeEncodeRoundTrip := by
  intro te i hte
  rw [decode_of_selects hte (Laws.RowSelects.all i te), reread_encode]

/-- Settles O5: a decoded word selects the row of its instruction, and a word that selects a row decodes to its form. -/
theorem decodeAgreesWithOpcodeTable : Obligations.DecodeAgreesWithOpcodeTable := by
  intro te w hte
  refine ⟨fun i h => ⟨mem_opcodeTable_iff.2 ⟨i, rfl⟩, (decode_form h).1⟩, fun r hr hsel => ?_⟩
  obtain ⟨i, rfl⟩ := mem_opcodeTable_iff.1 hr
  exact ⟨_, decode_of_selects hte hsel, i.row_reread te (fields w)⟩

/-- Settles O6: a word decodes to one instruction, and every row it selects is the row of that one. -/
theorem opcodeRowsAreDisjoint : Obligations.OpcodeRowsAreDisjoint := by
  intro te w r r' hte hr hr' hsel hsel'
  obtain ⟨-, hdecodes⟩ := decodeAgreesWithOpcodeTable te w hte
  obtain ⟨i, hi, rfl⟩ := hdecodes r hr hsel
  obtain ⟨i', hi', rfl⟩ := hdecodes r' hr' hsel'
  rw [Decoded.instr.inj (hi.symm.trans hi')]

/-- A running core whose fetched word decodes to nothing raises the unsupported-instruction error (R51). -/
theorem Machine.step_of_unsupported {s : Machine.State} {why : Unimplemented} (hr : s.status = .running)
    (hf : s.ifetch = some w) (hd : decode s.params.trap w = .unsupported why) :
    Machine.step s = .next (s.withFatal (.unsupported s.pc w)) := by
  unfold Machine.step
  simp only [hr, hf, hd, Machine.State.raise_eq]

/-- Settles O7: a word that decodes to an instruction selects its row, so this one decodes to none. -/
theorem unsupportedWordRaises : Obligations.UnsupportedWordRaises := by
  intro s w hte hr hf hnone
  cases hd : decode s.params.trap w with
  | unsupported why => exact Machine.step_of_unsupported hr hf hd
  | instr i =>
    obtain ⟨hmem, hsel⟩ := (decodeAgreesWithOpcodeTable _ w hte).1 i hd
    exact absurd hsel (hnone _ hmem)

/-! ### Words and fields as numbers -/

/-- Settles O1, word by word. -/
theorem decoderTableWordsDecode : Obligations.DecoderTableWordsDecode :=
  ⟨by decide, by decide, by decide, by decide, by decide, by decide⟩

/-- Settles O8: a slice is a quotient's remainder, at the top of the word the quotient itself. -/
theorem fieldsAreTheBitSlices : Obligations.FieldsAreTheBitSlices := by
  intro w
  have hop : (fields w).op.toNat = w.toNat / 2 ^ 26 := by
    have := w.isLt
    simp only [fields, BitVec.extractLsb'_toNat, Nat.shiftRight_eq_div_pow]
    omega
  refine ⟨hop, ?_, ?_, ?_, ?_, ?_, ?_, ?_, ?_, word_join_register w⟩
  all_goals simp [fields, Nat.shiftRight_eq_div_pow]

/-- Zeros appended to a field scale its number. -/
theorem toNat_append_zero {m : Nat} (field : BitVec m) (n : Nat) : (field ++ 0#n).toNat = 2 ^ n * field.toNat := by
  rw [BitVec.toNat_append, BitVec.toNat_ofNat, Nat.zero_mod, Nat.or_zero, Nat.shiftLeft_eq, Nat.mul_comm]

end Sys2Proof

namespace Sys2Proof.Machine

theorem simm_toInt (imm : BitVec 16) : (simm imm).toInt = imm.toInt :=
  BitVec.toInt_signExtend_of_le (by decide)

/-- The shift of a branch displacement loses no bit: its 18-bit value fits the word (R48). -/
theorem branchOffset_toInt (imm : BitVec 16) : (branchOffset imm).toInt = 4 * imm.toInt := by
  have hlow := BitVec.le_toInt imm
  have hhigh := BitVec.toInt_lt (x := imm)
  have hsimm := simm_toInt imm
  rw [BitVec.toInt_eq_toNat_cond] at hsimm ⊢
  rw [branchOffset, BitVec.toNat_shiftLeft, Nat.shiftLeft_eq]
  omega

/-- Settles O9: extensions keep the number, appended zeros scale it. -/
theorem immediateFormsAsNumbers : Obligations.ImmediateFormsAsNumbers := fun imm target =>
  ⟨BitVec.toNat_setWidth_of_le (by decide), simm_toInt imm, branchOffset_toInt imm, toNat_append_zero imm 16,
    toNat_append_zero target 2⟩

/-! ### Labels -/

/-- The parts of a jump target: region, field and the two bits of alignment (R110). -/
theorem word_join_jump (w : Word) : w = w.extractLsb' 28 4 ++ (jumpField w ++ w.extractLsb' 0 2) := by
  unfold jumpField; ext i hi; simp; grind

/-- R53, R110: a jump reaches every multiple of 4 in the region of `pc + 4`. -/
theorem State.jumpTarget_jumpField (s : State) {label : Word} (halign : label.toNat % 4 = 0)
    (hregion : label.toNat / 2 ^ 28 = s.nextPc.toNat / 2 ^ 28) : s.jumpTarget (jumpField label) = label := by
  have htop : label.extractLsb' 28 4 = s.nextPc.extractLsb' 28 4 := by
    apply BitVec.eq_of_toNat_eq
    simp only [BitVec.extractLsb'_toNat, Nat.shiftRight_eq_div_pow, hregion]
  have hlow : label.extractLsb' 0 2 = 0#2 := by
    apply BitVec.eq_of_toNat_eq
    simpa using halign
  rw [State.jumpTarget, joff, ← htop, ← hlow]
  exact (word_join_jump label).symm

/-- R53: a displacement that is a multiple of 4 in the 18-bit range is the offset of its own field. -/
theorem branchOffset_extract {d : Word} (halign : d.toNat % 4 = 0) (hlow : -131072 ≤ d.toInt)
    (hhigh : d.toInt ≤ 131068) : branchOffset (d.extractLsb' 2 16) = d := by
  apply BitVec.eq_of_toInt_eq
  rw [branchOffset_toInt]
  simp only [BitVec.toInt_eq_toNat_cond, BitVec.extractLsb'_toNat, Nat.shiftRight_eq_div_pow] at *
  omega

/-- Settles O10: a jump's label is put together again from region and field, and a branch's is its displacement from
`pc + 4`. -/
theorem labelFieldsReachTheLabel : Obligations.LabelFieldsReachTheLabel := by
  intro s label
  refine ⟨s.jumpTarget_jumpField, fun halign hlow hhigh => ?_⟩
  rw [State.branchTarget, branchField, branchOffset_extract halign hlow hhigh, State.nextPc, BitVec.add_comm,
    BitVec.sub_add_cancel]

end Sys2Proof.Machine
end

section
/-! The Hazard Tracker under many `Advance` calls: which slots are settled by the new entries alone, where an old entry
stands and what is left of its count (`40_step_and_tracker.md` R62), and so what `CheckDependency` answers (R63). The
laws of `Stall` (R68, R71, R75) are then arithmetic. -/

namespace Sys2Proof.Machine

variable {t u : Tracker} {r : TrackIdx} {entries : List Slot}

theorem Tracker.advanceAll_cons (t : Tracker) (e : Slot) (rest : List Slot) :
    t.advanceAll (e :: rest) = (t.advance e.dest e.cyc).advanceAll rest := rfl

/-- R62, for the new entry. -/
theorem Tracker.advance_new (t : Tracker) (d : Option TrackIdx) (a : Nat) : (t.advance d a)[(0 : Fin 8)] = ⟨d, a⟩ :=
  t.advance_youngest d a

/-- R62, for an entry of any age but the last: it stands one slot older, aged. -/
theorem Tracker.advance_next (t : Tracker) (d : Option TrackIdx) (a : Nat) {i j : Fin 8} (hj : j.val = i.val + 1) :
    (t.advance d a)[j] = t[i].aged := by
  rw [Tracker.advance_slot, if_neg (by omega)]
  simp [hj]

/-! ### What new entries settle -/

/-- The trackers hold the same in their `k` youngest slots. -/
def Tracker.agree (t u : Tracker) (k : Nat) : Prop := ∀ i : Fin 8, i.val < k → t[i] = u[i]

/-- `Advance` moves what the trackers agree in one slot older, behind the entry both now hold. -/
theorem Tracker.agree_advance {k : Nat} (d : Option TrackIdx) (a : Nat) (h : t.agree u k) :
    (t.advance d a).agree (u.advance d a) (k + 1) := by
  intro i hi
  rw [Tracker.advance_slot, Tracker.advance_slot]
  split
  · rfl
  · next h0 => exact congrArg Slot.aged (h ⟨i.val - 1, by omega⟩ (by simp only; omega))

theorem Tracker.agree_advanceAll {k : Nat} (h : t.agree u k) :
    (t.advanceAll entries).agree (u.advanceAll entries) (k + entries.length) := by
  induction entries generalizing t u k with
  | nil => exact h
  | cons e rest ih =>
    rw [List.length_cons, ← Nat.add_assoc, Nat.add_right_comm]
    exact ih (Tracker.agree_advance e.dest e.cyc h)

/-- R62: 8 or more `Advance` calls leave nothing of the older tracker. -/
theorem Tracker.advanceAll_forgets (t u : Tracker) (h : 8 ≤ entries.length) :
    t.advanceAll entries = u.advanceAll entries := by
  have none_yet : t.agree u 0 := by nofun
  exact Tracker.ext_slots fun i => Tracker.agree_advanceAll none_yet i (by omega)

/-- Settles O31: the new entry and the aged others slot by slot, and the trackers agree in one slot more with every
call. -/
theorem advanceShiftsAgesAndForgets : Obligations.AdvanceShiftsAgesAndForgets := by
  refine fun t u => ⟨fun d a => ⟨t.advance_youngest d a, fun i => ?_⟩, fun _ h => t.advanceAll_forgets u h⟩
  rw [t.advance_older d a i.val (by omega), Slot.aged_dest, Slot.aged_cyc]
  exact ⟨rfl, by omega⟩

/-! ### Which slot decides -/

/-- None of the `k` youngest slots holds the index. -/
def Tracker.free (t : Tracker) (r : TrackIdx) (k : Nat) : Prop := ∀ i : Fin 8, i.val < k → t[i].dest ≠ some r

theorem Tracker.check_free {k : Nat} (h : t.free r k) (hk : 8 ≤ k) (n : Nat) : t.check r n = 0 :=
  t.check_absent r n fun i => h i (by omega)

/-- An entry of another index is one slot more that does not hold this one. -/
theorem Tracker.free_advance {k : Nat} {q : Option TrackIdx} (a : Nat) (h : t.free r k) (hq : q ≠ some r) :
    (t.advance q a).free r (k + 1) := by
  intro i hi
  rw [Tracker.advance_slot]
  split
  · exact hq
  · next h0 => exact h ⟨i.val - 1, by omega⟩ (by simp only; omega)

theorem Tracker.free_advanceAll {k : Nat} (h : t.free r k) (he : ∀ e ∈ entries, e.dest ≠ some r) :
    (t.advanceAll entries).free r (k + entries.length) := by
  induction entries generalizing t k with
  | nil => exact h
  | cons e rest ih =>
    obtain ⟨hd, hrest⟩ := List.forall_mem_cons.1 he
    rw [List.length_cons, ← Nat.add_assoc, Nat.add_right_comm]
    exact ih (Tracker.free_advance e.cyc h hd) hrest

/-- R63: an entry just recorded decides. -/
theorem Tracker.check_advance_same (t : Tracker) (r : TrackIdx) (a n : Nat) :
    (t.advance (some r) a).check r n = a - n := by
  rw [Tracker.check_first _ r n 0 (by rw [Tracker.advance_new]) (by nofun), Tracker.advance_new]

/-- Settles O32: the youngest holder's count, none without a holder, and a recorded entry stands in slot 0. -/
theorem youngestWriterDecides : Obligations.YoungestWriterDecides := by
  refine fun t r n => ⟨fun i hi hmin => ?_, fun hno => ⟨t.check_absent r n hno, fun q a hq => ?_⟩,
    fun a => t.check_advance_same r a n⟩
  · rw [t.check_first r n i hi hmin]
    omega
  · have all_free : t.free r 8 := fun i _ => hno i
    exact Tracker.check_free (Tracker.free_advance a all_free hq) (by decide) n

/-! ### How a deficit runs off -/

/-- R62, call after call: an entry not yet discarded has moved one slot, and lost one cycle, for each. -/
theorem Tracker.advanceAll_older (t : Tracker) (entries : List Slot) {i j : Fin 8}
    (hj : j.val = i.val + entries.length) :
    (t.advanceAll entries)[j].dest = t[i].dest ∧ (t.advanceAll entries)[j].cyc = t[i].cyc - entries.length := by
  induction entries generalizing t i with
  | nil =>
    obtain rfl : j = i := Fin.ext hj
    exact ⟨rfl, rfl⟩
  | cons e rest ih =>
    rw [List.length_cons] at hj ⊢
    obtain ⟨hdest, hcyc⟩ := ih (t.advance e.dest e.cyc) (i := ⟨i.val + 1, by omega⟩) (by simp only; omega)
    rw [Tracker.advance_next t e.dest e.cyc (i := i) rfl] at hdest hcyc
    rw [Tracker.advanceAll_cons, hdest, hcyc, Slot.aged_dest, Slot.aged_cyc]
    exact ⟨rfl, by omega⟩

/-- The youngest holder of an index goes on deciding while other entries are recorded, until slot 7 is discarded. -/
theorem Tracker.check_advanceAll_holder {i : Fin 8} (hi : t[i].dest = some r) (hfree : t.free r i)
    (he : ∀ e ∈ entries, e.dest ≠ some r) (n : Nat) :
    (t.advanceAll entries).check r n =
      if i.val + entries.length ≤ 7 then t[i].cyc - entries.length - n else 0 := by
  have free := Tracker.free_advanceAll hfree he
  split
  · next h7 =>
    obtain ⟨hdest, hcyc⟩ := t.advanceAll_older entries (i := i) (j := ⟨i.val + entries.length, by omega⟩) rfl
    rw [Tracker.check_first _ r n _ (hdest.trans hi) free, hcyc]
  · next h8 => exact Tracker.check_free free (by omega) n

/-- Settles O35: a recorded entry is the holder in slot 0. -/
theorem stallDistanceLaw : Obligations.StallDistanceLaw := by
  intro t d a n later he
  have law := Tracker.check_advanceAll_holder (by rw [t.advance_new (some d) a]) (by nofun) he n
  rw [t.advance_new, Fin.val_zero, Nat.zero_add] at law
  exact law

/-- In a tracker that keeps R19's bound every entry of another index takes one cycle off a deficit: what is
discarded has none left. -/
theorem Tracker.check_advanceAll (hb : t.bounded) (he : ∀ e ∈ entries, e.dest ≠ some r) (n : Nat) :
    (t.advanceAll entries).check r n = t.check r n - entries.length := by
  rcases t.holder_cases r with hno | ⟨i, hi, hmin⟩
  · have all_free : t.free r 8 := fun i _ => hno i
    rw [t.check_absent r n hno, Tracker.check_free (Tracker.free_advanceAll all_free he) (by omega)]
    omega
  · have bound := (hb i).1
    rw [t.check_first r n i hi hmin, Tracker.check_advanceAll_holder hi hmin he]
    split <;> omega

/-- R64, R68: each bubble takes one cycle off every deficit. -/
theorem Tracker.check_bubbles (hb : t.bounded) (k : Nat) (r : TrackIdx) (n : Nat) :
    (t.bubbles k).check r n = t.check r n - k := by
  have no_holder : ∀ e ∈ List.replicate k Slot.bubble, e.dest ≠ some r := by
    intro e he
    rw [List.eq_of_mem_replicate he]
    nofun
  rw [Tracker.bubbles_eq_advanceAll, Tracker.check_advanceAll hb no_holder, List.length_replicate]

/-- Settles O33: a stall inserts as many bubbles as the deficit has cycles. -/
theorem stallLeavesNoDeficit : Obligations.StallLeavesNoDeficit := by
  intro t r n hb
  rw [Tracker.stalled, Tracker.check_bubbles hb, Nat.sub_self]

/-- Settles O34: the first stall's bubbles count towards the second. -/
theorem twoStallsCostTheLarger : Obligations.TwoStallsCostTheLarger := by
  intro t r q n m hb
  rw [Tracker.stalled, Tracker.check_bubbles hb]
  omega

end Sys2Proof.Machine
end

section
/-! That every step answers a next state, and the outcomes of a step told apart: stopped, retired, raised or waiting
(`40_step_and_tracker.md` R60, R72; `60_exceptions.md` R131). -/

namespace Sys2Proof.Machine

variable {s t : State} {i : Instr}

/-! ### A step always answers -/

/-- No instruction faults the machine or is refused (R50: every row of the table has its rule). -/
theorem exec_total (i : Instr) (s : State) : ∃ t, exec i s = .next t := by
  cases i with
  | sll | srl | sra | addu | subu | slt | mult | mfhi | mflo => exact ⟨_, rfl⟩
  | addiu | andi | lui | j | jal | jr | trapNl | trapPrint | trapHalt => exact ⟨_, rfl⟩
  | div rs rt =>
    by_cases hz : s.reg rt = 0
    · exact ⟨_, execDiv_zero hz⟩
    · exact ⟨_, execDiv_nonzero hz⟩
  | beq rs rt imm =>
    by_cases he : s.reg rs = s.reg rt
    · exact ⟨_, execBeq_taken he⟩
    · exact ⟨_, execBeq_untaken he⟩
  | bne rs rt imm =>
    by_cases he : s.reg rs = s.reg rt
    · exact ⟨_, execBne_untaken he⟩
    · exact ⟨_, execBne_taken he⟩
  | lw rt rs imm =>
    cases hb : s.badAddress (s.effectiveAddress rs imm) with
    | none => exact ⟨_, execLw_valid hb⟩
    | some reason => exact ⟨_, execLw_invalid hb⟩
  | sw rt rs imm =>
    cases hb : s.badAddress (s.effectiveAddress rs imm) with
    | none => exact ⟨_, execSw_valid hb⟩
    | some reason => exact ⟨_, execSw_invalid hb⟩
  | trapRead rt =>
    cases hc : s.consoleIn with
    | nil => exact ⟨_, execTrapRead_empty hc⟩
    | cons v rest => exact ⟨_, execTrapRead_answered hc⟩

theorem step_total (s : State) : ∃ t, step s = .next t := by
  unfold step
  split
  · exact ⟨_, s.idle_eq⟩
  · exact ⟨_, s.idle_eq⟩
  · split
    · exact ⟨_, s.raise_eq _⟩
    · split
      · exact ⟨_, s.raise_eq _⟩
      · exact exec_total _ s

/-! ### Steps that change nothing -/

theorem step_of_stopped (hs : s.status ≠ .running) : step s = .next s := by
  obtain ⟨t, ht⟩ := step_total s
  rw [ht, step_stopped ht hs]

/-- A TRAP.READ with no answer changes nothing (`46_trap.md` R120). -/
theorem step_of_waiting (hr : s.status = .running) (hw : s.waiting) : step s = .next s := by
  obtain ⟨⟨rt, hi⟩, hc⟩ := hw
  rw [step_of_nextInstr hr hi, execTrapRead_empty hc]

/-- A step that changes something did not wait. -/
theorem not_waiting_of_step_ne (hr : s.status = .running) (h : step s = .next t) (hne : t ≠ s) : ¬ s.waiting := by
  intro hw
  rw [step_of_waiting hr hw] at h
  cases h
  exact hne rfl

/-- A run goes on from the state its first step answers. -/
theorem run_succ {M : Host.Core} {x y : M.State} (h : M.step x = .next y) (n : Nat) : M.run (n + 1) x = M.run n y := by
  rw [Host.Core.run, h]

/-- R60: any number of steps of a stopped core. -/
theorem run_of_stopped (n : Nat) (hs : s.status ≠ .running) : core.run n s = .next s := by
  have hstep : core.step s = .next s := step_of_stopped hs
  induction n with
  | zero => rfl
  | succ n ih => exact (run_succ hstep n).trans ih

/-! ### The outcomes of a running core -/

/-- An instruction that retires ends no run in a fatal condition. -/
theorem State.Frame.safe (h : s.Frame i t) (hr : s.status = .running) : t.safe := by
  unfold State.safe
  rcases h.status with hs | ⟨hs, -⟩
  · rw [hs, hr]; rfl
  · rw [hs]; rfl

theorem State.Retired.ne (h : s.Retired i t) : t ≠ s := by
  rintro rfl
  obtain ⟨hcount, -⟩ := h.cost
  omega

theorem State.withFatal_ne (f : Fatal) (hr : s.status = .running) : s.withFatal f ≠ s := by
  intro he
  have hstatus := congrArg State.status he
  rw [hr] at hstatus
  cases hstatus

/-- Settles O17: a stopped core by induction on the steps; a running one outcome by outcome, and only the wait changes
nothing. -/
theorem coreStepsOnlyWhileRunning : Obligations.CoreStepsOnlyWhileRunning := by
  refine ⟨fun _ n hs => run_of_stopped n hs, fun s hr => ?_⟩
  obtain ⟨t, h⟩ := step_total s
  refine ⟨t, h, ?_⟩
  rcases step_outcome h with ⟨i, -, -, hret⟩ | ⟨f, -, -, rfl⟩ | ⟨rfl, hstop | hw⟩
  · obtain ⟨hcount, -⟩ := hret.cost
    exact .inl ⟨hcount, hret.safe hr, not_waiting_of_step_ne hr h hret.ne⟩
  · exact .inr (.inl ⟨f, rfl, not_waiting_of_step_ne hr h (State.withFatal_ne f hr)⟩)
  · exact absurd hr hstop
  · exact .inr (.inr ⟨rfl, hw⟩)

/-- Settles O18: of the outcomes of a step only the raising one leaves a fatal condition. -/
theorem fatalStepChangesOnlyStatus : Obligations.FatalStepChangesOnlyStatus := by
  intro s t f hr h hf
  rcases step_outcome h with ⟨i, -, -, hret⟩ | ⟨g, -, hpc, rfl⟩ | ⟨rfl, -⟩
  · exact absurd hf (hret.not_faulted hr f)
  · cases hf
    exact ⟨rfl, hpc⟩
  · rw [hr] at hf
    cases hf

end Sys2Proof.Machine
end

section
/-! The instructions that write one general register and go on: their results, frame and cost, said once for the end they
share (`finishReg`); then register-format ALU (`41_alu_register.md` R80 to R85): what each form's word decodes to, and
each result as a number. -/

namespace Sys2Proof

/-! ### Decoding a register-format word -/

/-- R49: a register-format word is decoded by its function code, whatever the trap encoding. -/
theorem decode_registerWord (te : TrapEncoding) (rs rt rd : Reg) (sh : Shamt) (fn : BitVec 6) :
    decode te (registerWord rs rt rd sh fn) =
      decodeRegister { op := 0, rs := fieldOf rs, rt := fieldOf rt, rd := fieldOf rd, shamt := fieldOf sh, funct := fn
                       imm16 := fieldOf rd ++ fieldOf sh ++ fn
                       target26 := fieldOf rs ++ fieldOf rt ++ fieldOf rd ++ fieldOf sh ++ fn
                       code4 := fn.extractLsb' 0 4 } := by
  rw [decode_of_register (by rw [fields_registerWord]; rfl), fields_registerWord]

end Sys2Proof

namespace Sys2Proof.Machine

variable {s : State} {i : Instr} {d : Reg} {v : Word} {a : Nat} {needs : List (TrackIdx × Nat)}

/-! ### Writing one register and going on -/

/-- An instruction that stalls for its operands, writes one register and goes on: its result and frame (R13), its next
`pc` (R15), its cost (R155). -/
theorem exec_of_finishReg (h : exec i s = (s.stalls needs).finishReg d v a) :
    ∃ t, exec i s = .next t ∧ s.wroteReg t d v ∧ s.restSame t ∧ t.pc = s.pc + 4 ∧
      s.cost t needs (some (.gpr d)) a false := by
  rw [State.stalls_eq] at h
  refine ⟨_, h, State.wroteReg_of_regs rfl, ?_, rfl, ?_⟩
  · exact ⟨⟨rfl, rfl⟩, fun _ => rfl, ⟨rfl, rfl⟩, ⟨rfl, rfl⟩⟩
  · exact ⟨rfl, rfl, rfl, rfl⟩

/-! ### Results as numbers -/

/-- R80: the product with a power of two modulo `2^32`. -/
theorem shiftLeft_eq_ofNat (v : Word) (sh : Shamt) : shiftLeft v sh = BitVec.ofNat 32 (v.toNat * 2 ^ sh.val) := by
  rw [← Nat.shiftLeft_eq]
  rfl

/-- R81: the unsigned quotient, which needs no reduction. -/
theorem shiftRightLogical_eq_ofNat (v : Word) (sh : Shamt) :
    shiftRightLogical v sh = BitVec.ofNat 32 (v.toNat / 2 ^ sh.val) := by
  rw [← Nat.shiftRight_eq_div_pow, ← BitVec.toNat_ushiftRight, BitVec.ofNat_toNat, BitVec.setWidth_eq,
    shiftRightLogical]

/-- R82: the quotient of the signed value rounded toward minus infinity. -/
theorem shiftRightArith_eq_ofInt (v : Word) (sh : Shamt) :
    shiftRightArith v sh = BitVec.ofInt 32 (v.toInt.fdiv (2 ^ sh.val)) := by
  rw [Int.fdiv_eq_ediv_of_nonneg _ (by positivity), shiftRightArith, BitVec.sshiftRight, Int.shiftRight_eq_div_pow,
    Nat.cast_pow, Nat.cast_ofNat]

/-- R84: the difference of the unsigned values modulo `2^32`. -/
theorem sub_eq_ofInt (a b : Word) : a - b = BitVec.ofInt 32 (a.toNat - b.toNat) := by
  rw [Int.sub_eq_add_neg, BitVec.ofInt_add, BitVec.ofInt_neg, BitVec.ofInt_natCast, BitVec.ofInt_natCast,
    BitVec.ofNat_toNat, BitVec.ofNat_toNat, BitVec.setWidth_eq, BitVec.setWidth_eq, BitVec.sub_eq_add_neg]

/-! ### SLL, SRL, SRA -/

/-- Settles O41: each form's function code, then each form's result under the shared end. -/
theorem shiftsComputeAndFrame : Obligations.ShiftsComputeAndFrame := by
  intro rd rt sh s
  refine ⟨fun te rs => ⟨?_, ?_, ?_⟩, ?_, ?_, ?_⟩
  · exact decode_registerWord te (regOf rs) rt rd sh 0x00
  · exact decode_registerWord te (regOf rs) rt rd sh 0x02
  · exact decode_registerWord te (regOf rs) rt rd sh 0x03
  · rw [← shiftLeft_eq_ofNat]
    exact exec_of_finishReg rfl
  · rw [← shiftRightLogical_eq_ofNat]
    exact exec_of_finishReg rfl
  · rw [← shiftRightArith_eq_ofInt]
    exact exec_of_finishReg rfl

/-! ### ADDU, SUBU -/

/-- Settles O42: each form's function code, then the sum and the difference modulo `2^32` under the shared end. -/
theorem adduSubuComputeAndFrame : Obligations.AdduSubuComputeAndFrame := by
  intro rd rs rt s
  refine ⟨fun te sh => ⟨?_, ?_⟩, ?_, ?_⟩
  · exact decode_registerWord te rs rt rd sh.toFin 0x21
  · exact decode_registerWord te rs rt rd sh.toFin 0x23
  · rw [← BitVec.add_def]
    exact exec_of_finishReg rfl
  · rw [← sub_eq_ofInt]
    exact exec_of_finishReg rfl

/-! ### SLT -/

theorem setLessThan_of_lt {a b : Word} (h : a.toInt < b.toInt) : setLessThan a b = 1 := if_pos h

theorem setLessThan_of_not_lt {a b : Word} (h : ¬ a.toInt < b.toInt) : setLessThan a b = 0 := if_neg h

/-- Settles O43: the one comparison, as it comes out, under the shared end. -/
theorem sltComputesAndFrame : Obligations.SltComputesAndFrame := by
  intro rd rs rt s
  refine ⟨fun te sh => decode_registerWord te rs rt rd sh.toFin 0x2A, ?_⟩
  obtain ⟨t, ht, hwrote, hrest⟩ :=
    exec_of_finishReg (s := s) (i := .slt rd rs rt) (needs := [(.gpr rs, 3), (.gpr rt, 3)]) rfl
  exact ⟨t, ht, fun hlt => setLessThan_of_lt hlt ▸ hwrote, fun hge => setLessThan_of_not_lt hge ▸ hwrote, hrest⟩

end Sys2Proof.Machine
end

section
/-! Multiply, divide and the accumulator moves (`42_muldiv.md` R90 to R94): the end MULT and DIV share (`finishAcc`), the
exact signed product across `HI` and `LO`, and the quotient and the remainder of a division toward zero. -/

namespace Sys2Proof

/-! ### Register-format words with ignored bits -/

/-- R49: bits 15:6 of a word are its `rd` and `shamt` fields. -/
theorem registerWord_bits_15_6 (rs rt : Reg) (b : BitVec 10) (fn : BitVec 6) :
    0#6 ++ fieldOf rs ++ fieldOf rt ++ b ++ fn =
      registerWord rs rt (regOf (b.extractLsb' 5 5)) (regOf (b.extractLsb' 0 5)) fn := by
  unfold registerWord
  ext i hi
  simp only [fieldOf_regOf, BitVec.getElem_append, BitVec.getElem_extractLsb']
  grind

/-- R49: bits 25:16 of a word are its `rs` and `rt` fields. -/
theorem registerWord_bits_25_16 (b : BitVec 10) (rd : Reg) (sh : BitVec 5) (fn : BitVec 6) :
    0#6 ++ b ++ fieldOf rd ++ sh ++ fn =
      registerWord (regOf (b.extractLsb' 5 5)) (regOf (b.extractLsb' 0 5)) rd (regOf sh) fn := by
  unfold registerWord
  ext i hi
  simp only [fieldOf_regOf, BitVec.getElem_append, BitVec.getElem_extractLsb']
  grind

end Sys2Proof

namespace Sys2Proof.Machine

variable {s : State} {i : Instr} {hi lo : Word} {needs : List (TrackIdx × Nat)}

/-! ### Writing the accumulators and going on -/

/-- An instruction that stalls for its operands, writes both accumulators and goes on (R94): its result and frame (R13,
R14), its next `pc` (R15), its cost (R155). -/
theorem exec_of_finishAcc (h : exec i s = (s.stalls needs).finishAcc hi lo) :
    ∃ t, exec i s = .next t ∧ (t.hi = hi ∧ t.lo = lo) ∧
      s.sameRegs t ∧ s.sameMem t ∧ s.sameConsole t ∧ s.sameRun t ∧ t.pc = s.pc + 4 ∧
      s.cost t needs (some .acc) 7 false := by
  rw [State.stalls_eq] at h
  refine ⟨_, h, ⟨rfl, rfl⟩, ?_, ?_, ?_, ?_, rfl, ?_⟩
  · exact fun _ => rfl
  · exact fun _ => rfl
  · exact ⟨rfl, rfl⟩
  · exact ⟨rfl, rfl⟩
  · exact ⟨rfl, rfl, rfl, rfl⟩

/-! ### MULT -/

theorem productHigh_append_productLow (a b : Word) : productHigh a b ++ productLow a b = signedProduct a b :=
  BitVec.extractLsb'_append_extractLsb'

/-- R90: a product of two signed words is at most `2^62` in size, so its 64-bit pattern is exact. -/
theorem signedProduct_toInt (a b : Word) : (signedProduct a b).toInt = a.toInt * b.toInt := by
  have hlow := BitVec.le_toInt_mul_toInt (x := a) (y := b)
  have hhigh := BitVec.toInt_mul_toInt_le (x := a) (y := b)
  exact BitVec.toInt_ofInt_eq_self (by decide) (by omega) (by omega)

/-- Settles O44: the ignored bits, then the two halves of the product joined again under the shared end. -/
theorem multSplitsTheProduct : Obligations.MultSplitsTheProduct := by
  intro rs rt s
  constructor
  · intro te ignored
    rw [registerWord_bits_15_6, decode_registerWord]
    rfl
  · obtain ⟨t, ht, ⟨hhi, hlo⟩, hrest⟩ :=
      exec_of_finishAcc (s := s) (i := .mult rs rt) (needs := [(.gpr rs, 3), (.gpr rt, 3)]) rfl
    refine ⟨t, ht, ?_, hrest⟩
    rw [hhi, hlo, productHigh_append_productLow, signedProduct_toInt]

/-! ### DIV -/

/-- R91: the remainder of a division toward zero, `r = n - q * m`. -/
theorem remainderWord_eq_ofInt_tmod (n m : Word) : remainderWord n m = BitVec.ofInt 32 (n.toInt.tmod m.toInt) := by
  rw [Int.tmod_def, mul_comm m.toInt, remainderWord]

theorem abs_tmod_lt (n : Int) {m : Int} (hm : m ≠ 0) : |n.tmod m| < |m| := by
  rw [Int.abs_eq_natAbs, Int.abs_eq_natAbs, Int.natAbs_tmod]
  exact_mod_cast Nat.mod_lt _ (Int.natAbs_pos.mpr hm)

/-- The remainder of a division toward zero has the sign of the dividend, or is zero. -/
theorem tmod_mul_nonneg (n m : Int) : 0 ≤ n.tmod m * n := by
  obtain hn | hn := le_total 0 n
  · exact mul_nonneg (Int.tmod_nonneg m hn) hn
  · have hneg : 0 ≤ (-n).tmod m := Int.tmod_nonneg m (by omega)
    rw [Int.neg_tmod] at hneg
    exact mul_nonneg_of_nonpos_of_nonpos (by omega) hn

/-- DIV by a non-zero divisor ends as MULT does, with the remainder and the quotient (R91). -/
theorem execDiv_finishAcc {rs rt : Reg} (h : s.reg rt ≠ 0) :
    exec (.div rs rt) s = (s.stalls [(.gpr rs, 3), (.gpr rt, 3)]).finishAcc
      (remainderWord (s.reg rs) (s.reg rt)) (quotientWord (s.reg rs) (s.reg rt)) :=
  execDiv_nonzero h

/-- Settles O45: the ignored bits and the zero divisor; else the quotient and the remainder under the shared end. -/
theorem divQuotientAndRemainder : Obligations.DivQuotientAndRemainder := by
  intro rs rt s
  refine ⟨?_, execDiv_zero, ?_⟩
  · intro te ignored
    rw [registerWord_bits_15_6, decode_registerWord]
    rfl
  · intro hdivisor
    obtain ⟨t, ht, ⟨hhi, hlo⟩, hrest⟩ := exec_of_finishAcc (execDiv_finishAcc (rs := rs) hdivisor)
    rw [remainderWord_eq_ofInt_tmod] at hhi
    have hm : (s.reg rt).toInt ≠ 0 := fun h => hdivisor (BitVec.toInt_inj.mp h)
    exact ⟨t, ht, ⟨_, _, (Int.tdiv_mul_add_tmod _ _).symm, abs_tmod_lt _ hm, tmod_mul_nonneg _ _, hlo, hhi⟩, hrest⟩

/-! ### MFHI, MFLO -/

/-- Settles O46: the ignored bits, then each accumulator as the result under the end of a register write. -/
theorem accumulatorMovesComputeAndFrame : Obligations.AccumulatorMovesComputeAndFrame := by
  intro rd s
  refine ⟨fun te ignored sh => ⟨?_, ?_⟩, exec_of_finishReg rfl, exec_of_finishReg rfl⟩
  · rw [registerWord_bits_25_16, decode_registerWord]
    rfl
  · rw [registerWord_bits_25_16, decode_registerWord]
    rfl

end Sys2Proof.Machine
end

section
/-! Immediate instructions (`43_immediate.md` R100 to R102): an immediate-format word whose `rs` field is ignored, and
each result as a number or as the halves of its word. All three end in a register write (`exec_of_finishReg`). -/

namespace Sys2Proof

/-- R49, R102: LUI's word is decoded alike whatever stands in bits 25:21. -/
theorem decode_luiWord {te : TrapEncoding} (hte : te.wf) (rs rt : Reg) (imm : BitVec 16) :
    decode te (immediateWord 0x0F rs rt imm) = .instr (.lui rt imm) := by
  have hrow : ((Instr.lui rt imm).row te).selects (immediateWord 0x0F rs rt imm) :=
    Laws.RowSelects.of_immediateWord "LUI" 0x0F rs rt imm
  obtain ⟨-, -, hrt, himm⟩ := fields_immediateWord 0x0F rs rt imm
  rw [decode_of_selects hte hrow, Instr.reread, hrt, himm, regOf_fieldOf]

end Sys2Proof

namespace Sys2Proof.Machine

/-! ### Results as numbers and as halves -/

/-- R100, R107: the sum with the signed immediate modulo `2^32`. -/
theorem add_simm_eq_ofInt (v : Word) (imm : BitVec 16) : v + simm imm = BitVec.ofInt 32 (v.toNat + imm.toInt) := by
  rw [BitVec.ofInt_add, BitVec.ofInt_natCast, BitVec.ofNat_toNat, BitVec.setWidth_eq, ← simm_toInt,
    BitVec.ofInt_toInt]

/-- R48: the zero-extended immediate by its halves. -/
theorem uimm_eq_append (imm : BitVec 16) : uimm imm = 0#16 ++ imm :=
  BitVec.setWidth_eq_append (by decide)

/-- R101: the zero upper half of the immediate clears the upper half of the result. -/
theorem and_uimm_eq_append (v : Word) (imm : BitVec 16) : v &&& uimm imm = 0#16 ++ (v.extractLsb' 0 16 &&& imm) := by
  have hhalves : v = v.extractLsb' 16 16 ++ v.extractLsb' 0 16 :=
    (BitVec.extractLsb'_append_extractLsb' (len := 16) (w := 16)).symm
  conv_lhs => rw [hhalves, uimm_eq_append, BitVec.and_append, BitVec.and_zero]

/-- R102: the immediate in the upper half is its product with `2^16`. -/
theorem highImm_eq_ofNat (imm : BitVec 16) : highImm imm = BitVec.ofNat 32 (imm.toNat * 2 ^ 16) := by
  rw [Nat.mul_comm, ← toNat_append_zero, BitVec.ofNat_toNat, BitVec.setWidth_eq, highImm]

/-! ### ADDIU, ANDI -/

/-- Settles O47: both words are the encoder's own; then the sum and the lower half of the conjunction under the shared
end. -/
theorem addiuAndiComputeAndFrame : Obligations.AddiuAndiComputeAndFrame := by
  intro rt rs imm s
  refine ⟨fun te hte => ⟨?_, ?_⟩, ?_, ?_⟩
  · exact decodeEncodeRoundTrip te (.addiu rt rs imm) hte
  · exact decodeEncodeRoundTrip te (.andi rt rs imm) hte
  · rw [← add_simm_eq_ofInt]
    exact exec_of_finishReg rfl
  · rw [← and_uimm_eq_append]
    exact exec_of_finishReg rfl

/-! ### LUI -/

/-- Settles O48: the ignored field, then the upper half under the shared end; no operand is checked, so no bubble is
counted. -/
theorem luiComputesAndFrame : Obligations.LuiComputesAndFrame := by
  intro rt imm s
  refine ⟨fun te rs hte => decode_luiWord hte (regOf rs) rt imm, ?_⟩
  obtain ⟨t, ht, hwrote, hrest, hpc, hcost⟩ := exec_of_finishReg (s := s) (i := .lui rt imm) (needs := []) rfl
  have ⟨_, hbubbles, _⟩ := hcost
  rw [highImm_eq_ofNat] at hwrote
  exact ⟨t, ht, hwrote, hrest, hpc, hbubbles, hcost⟩

end Sys2Proof.Machine
end

section
/-! Word load and store (`44_loadstore.md` R105 to R107): the effective address as a number, the reason an invalid
address is refused for, and the end of an instruction that writes one word of data memory. LW ends in a register write
(`exec_of_finishReg`). -/

namespace Sys2Proof.Machine

variable {s : State} {i : Instr} {rt rs : Reg} {imm : BitVec 16} {ea : Word} {needs : List (TrackIdx × Nat)}

/-! ### The address -/

/-- R107: the base plus the signed immediate modulo `2^32`. -/
theorem State.effectiveAddress_eq_ofInt (s : State) (rs : Reg) (imm : BitVec 16) :
    s.effectiveAddress rs imm = BitVec.ofInt 32 ((s.reg rs).toNat + imm.toInt) :=
  add_simm_eq_ofInt (s.reg rs) imm

/-- R35: a misaligned address is refused as such, inside the region or outside. -/
theorem State.badAddress_misaligned (h : ea.toNat % 4 ≠ 0) : s.badAddress ea = some .unaligned :=
  (s.badAddress_some_iff ea _).2 (.inl ⟨rfl, h⟩)

/-- R35: an invalid address that is aligned lies outside the region. -/
theorem State.badAddress_outside (h4 : ea.toNat % 4 = 0) (h : ¬ s.validAddress ea) :
    s.badAddress ea = some .outOfBounds :=
  (s.badAddress_some_iff ea _).2 (.inr ⟨rfl, h4, fun hin => h ⟨h4, hin⟩⟩)

/-! ### LW -/

/-- LW at a valid address writes the word there to its register and goes on (R105). -/
theorem execLw_finishReg (h : s.badAddress (s.effectiveAddress rs imm) = none) :
    exec (.lw rt rs imm) s = (s.stalls [(.gpr rs, 3)]).finishReg rt
      (s.dmemWord (s.wordIndex (s.effectiveAddress rs imm))) 6 :=
  execLw_valid h

/-- Settles O49: the word is the encoder's own; a valid address by the shared end of a register write, an invalid one by
the reason it is refused for. -/
theorem loadWordComputesAndFrame : Obligations.LoadWordComputesAndFrame := by
  intro rt rs imm s ea hfits hea
  rw [← State.effectiveAddress_eq_ofInt] at hea
  subst hea
  refine ⟨fun te hte => decodeEncodeRoundTrip te (.lw rt rs imm) hte, fun hvalid => ?_,
    fun h4 => ?_, fun h4 hout => ?_⟩
  · have hgood := (s.badAddress_none_iff _).2 hvalid
    obtain ⟨hindex, haddress⟩ := s.wordIndex_valid _ hfits hgood
    exact ⟨hindex, haddress, exec_of_finishReg (execLw_finishReg hgood)⟩
  · exact execLw_invalid (State.badAddress_misaligned h4)
  · exact execLw_invalid (State.badAddress_outside h4 hout)

/-! ### SW -/

/-- An instruction that stalls for its operands, writes one word of data memory and goes on: that word and every other
(R34, R42), its frame (R13), its next `pc` (R15), its cost (R155). -/
theorem exec_of_write_finishNone {k : Nat} {v : Word} (hw : s.dmem.wf)
    (h : exec i s = State.finishNone { s.stalls needs with dmem := s.dmem.write k v }) :
    ∃ t, exec i s = .next t ∧ t.dmemWord k = v ∧ s.sameMemOutside t k ∧
      s.sameRegs t ∧ s.sameAcc t ∧ s.sameConsole t ∧ s.sameRun t ∧ t.pc = s.pc + 4 ∧
      s.cost t needs none 0 false := by
  have hword := fun j => s.dmemWord_write k v j hw
  rw [State.stalls_eq] at h
  refine ⟨_, h, ?_, ?_, ?_, ?_, ?_, ?_, rfl, ?_⟩
  · exact (hword k).trans (if_pos rfl)
  · exact fun j hj => (hword j).trans (if_neg hj.symm)
  · exact fun _ => rfl
  · exact ⟨rfl, rfl⟩
  · exact ⟨rfl, rfl⟩
  · exact ⟨rfl, rfl⟩
  · exact ⟨rfl, rfl, rfl, rfl⟩

/-- SW at a valid address writes its register to the word there and goes on (R106); its data is needed a stage later
than its base (D10). -/
theorem execSw_finishNone (h : s.badAddress (s.effectiveAddress rs imm) = none) :
    exec (.sw rt rs imm) s = State.finishNone { s.stalls [(.gpr rs, 3), (.gpr rt, 4)] with
      dmem := s.dmem.write (s.wordIndex (s.effectiveAddress rs imm)) (s.reg rt) } :=
  execSw_valid h

/-- Settles O50: the word is the encoder's own; a valid address by the end of a memory write, an invalid one by the
reason it is refused for. -/
theorem storeWordComputesAndFrame : Obligations.StoreWordComputesAndFrame := by
  intro rt rs imm s ea hfits hw hea
  rw [← State.effectiveAddress_eq_ofInt] at hea
  subst hea
  refine ⟨fun te hte => decodeEncodeRoundTrip te (.sw rt rs imm) hte, fun hvalid => ?_,
    fun h4 => ?_, fun h4 hout => ?_⟩
  · have hgood := (s.badAddress_none_iff _).2 hvalid
    obtain ⟨hindex, haddress⟩ := s.wordIndex_valid _ hfits hgood
    exact ⟨hindex, haddress, exec_of_write_finishNone hw (execSw_finishNone hgood)⟩
  · exact execSw_invalid (State.badAddress_misaligned h4)
  · exact execSw_invalid (State.badAddress_outside h4 hout)

end Sys2Proof.Machine
end

section
/-! Control transfer (`45_control.md` R110 to R115): each target as a number, the ends of a transfer (`finishTransfer`)
and of a conditional branch (`finishBranch`), and the fault that meets a transfer to a bad target at the next fetch. -/

namespace Sys2Proof

/-- R49, R112: bits 20:6 of a word are its `rt`, `rd` and `shamt` fields. -/
theorem registerWord_bits_20_6 (rs : Reg) (b : BitVec 15) (fn : BitVec 6) :
    0#6 ++ fieldOf rs ++ b ++ fn =
      registerWord rs (regOf (b.extractLsb' 10 5)) (regOf (b.extractLsb' 5 5)) (regOf (b.extractLsb' 0 5)) fn := by
  unfold registerWord
  ext i hi
  simp only [fieldOf_regOf, BitVec.getElem_append, BitVec.getElem_extractLsb']
  grind

end Sys2Proof

namespace Sys2Proof.Machine

variable {s t : State} {i : Instr} {needs : List (TrackIdx × Nat)}

/-! ### Targets as numbers -/

/-- R110 (D9): the region of `pc + 4`, then four times the field. -/
theorem State.jumpTarget_toNat (s : State) (target : BitVec 26) :
    (s.jumpTarget target).toNat = (s.pc + 4).toNat / 2 ^ 28 * 2 ^ 28 + target.toNat * 4 := by
  have hregion : (s.nextPc.extractLsb' 28 4).toNat = s.nextPc.toNat / 2 ^ 28 := by
    have hword := s.nextPc.isLt
    rw [BitVec.extractLsb'_toNat, Nat.shiftRight_eq_div_pow]
    omega
  have hoffset : (joff target).toNat = 2 ^ 2 * target.toNat := toNat_append_zero target 2
  rw [State.jumpTarget, BitVec.toNat_append, ← Nat.shiftLeft_add_eq_or_of_lt (joff target).isLt, Nat.shiftLeft_eq,
    hregion, hoffset, State.nextPc]
  omega

/-- R113, R114 (D8): `pc + 4` plus four times the signed immediate, modulo `2^32`. -/
theorem State.branchTarget_eq_ofInt (s : State) (imm : BitVec 16) :
    s.branchTarget imm = BitVec.ofInt 32 (s.pc.toNat + 4 + 4 * imm.toInt) := by
  rw [← branchOffset_toInt, BitVec.ofInt_add, BitVec.ofInt_add, BitVec.ofInt_toInt, BitVec.ofInt_natCast,
    BitVec.ofNat_toNat, BitVec.setWidth_eq]
  rfl

/-! ### The ends of a transfer and of a branch -/

@[simp] theorem State.stalls_regs (s : State) (needs : List (TrackIdx × Nat)) : (s.stalls needs).regs = s.regs := by
  rw [State.stalls_eq]

@[simp] theorem State.stalls_branchTarget (s : State) (needs : List (TrackIdx × Nat)) (imm : BitVec 16) :
    (s.stalls needs).branchTarget imm = s.branchTarget imm := by
  rw [State.stalls_eq]
  rfl

/-- An instruction that stalls for its operands, leaves the registers as `regs` and transfers to `target`: its frame
(R13), its next `pc` (R115), its cost with one flush (R70, R155). -/
theorem exec_of_finishTransfer {regs : Vector Word 32} {d : Option TrackIdx} {a : Nat} {target : Word}
    (h : exec i s = State.finishTransfer { s.stalls needs with regs := regs } d a target) :
    ∃ t, exec i s = .next t ∧ t.pc = target ∧ t.regs = regs ∧ s.restSame t ∧ s.cost t needs d a true := by
  rw [State.stalls_eq] at h
  refine ⟨_, h, rfl, rfl, ?_, ?_⟩
  · exact ⟨⟨rfl, rfl⟩, fun _ => rfl, ⟨rfl, rfl⟩, ⟨rfl, rfl⟩⟩
  · exact ⟨rfl, rfl, rfl, rfl⟩

/-- An instruction that stalls for its operands, writes nothing and goes on: its frame (R13), its next `pc` (R15), its
cost (R155). -/
theorem exec_of_finishNone (h : exec i s = (s.stalls needs).finishNone) :
    ∃ t, exec i s = .next t ∧ t.pc = s.pc + 4 ∧ t.regs = s.regs ∧ s.restSame t ∧ s.cost t needs none 0 false := by
  rw [State.stalls_eq] at h
  refine ⟨_, h, rfl, rfl, ?_, ?_⟩
  · exact ⟨⟨rfl, rfl⟩, fun _ => rfl, ⟨rfl, rfl⟩, ⟨rfl, rfl⟩⟩
  · exact ⟨rfl, rfl, rfl, rfl⟩

/-- A conditional branch, taken or untaken: the same frame, and the `pc` and the cost of its own case (R113, R114). -/
theorem exec_of_finishBranch {taken : Bool} {imm : BitVec 16}
    (h : exec i s = (s.stalls needs).finishBranch taken imm) :
    ∃ t, exec i s = .next t ∧ s.sameRegs t ∧ s.restSame t ∧
      (taken = true → t.pc = BitVec.ofInt 32 (s.pc.toNat + 4 + 4 * imm.toInt) ∧ s.cost t needs none 0 true) ∧
      (taken = false → t.pc = s.pc + 4 ∧ s.cost t needs none 0 false) := by
  cases taken with
  | true =>
    obtain ⟨t, ht, hpc, hregs, hrest, hcost⟩ := exec_of_finishTransfer h
    rw [State.stalls_branchTarget, State.branchTarget_eq_ofInt] at hpc
    rw [State.stalls_regs] at hregs
    exact ⟨t, ht, State.sameRegs_of_regs hregs, hrest, fun _ => ⟨hpc, hcost⟩, nofun⟩
  | false =>
    obtain ⟨t, ht, hpc, hregs, hrest, hcost⟩ := exec_of_finishNone h
    exact ⟨t, ht, State.sameRegs_of_regs hregs, hrest, nofun, fun _ => ⟨hpc, hcost⟩⟩

/-! ### A bad target -/

/-- A running core at an address that is misaligned or outside the image, the parameters as in `s`, raises the fetch
range error (R39). -/
theorem step_of_outsideImage (hp : t.params = s.params) (hr : t.status = .running) (hout : s.outsideImage t.pc) :
    step t = .next (t.withFatal (.fetchRange t.pc)) := by
  refine step_of_ifetch_none hr (t.ifetch_eq_none_iff.2 ?_)
  unfold State.outsideImage at hout ⊢
  rwa [hp]

/-- R115(d): a transfer taken is counted, whatever its target. -/
theorem instructions_of_taken (ht : i.taken s = true) (h : exec i s = .next t) :
    t.instructions = s.instructions + 1 := by
  cases i with
  | j | jal | jr =>
    cases h
    rfl
  | beq =>
    rcases execBeq_cases h with ⟨-, rfl⟩ | ⟨-, rfl⟩
    · rfl
    · rfl
  | bne =>
    rcases execBne_cases h with ⟨-, rfl⟩ | ⟨-, rfl⟩
    · rfl
    · rfl
  | _ => cases ht

/-- A transfer taken retires: a fatal condition or a wait would leave it uncounted. -/
theorem retired_of_taken (ht : i.taken s = true) (h : exec i s = .next t) : s.Retired i t := by
  have hcount := instructions_of_taken ht h
  rcases exec_cases h with hret | ⟨f, -, rfl⟩ | ⟨rfl, -, -⟩
  · exact hret
  · rw [State.withFatal_instructions] at hcount
    omega
  · omega

/-- The one instruction that leaves the run status otherwise, TRAP.HALT, is no transfer (R21). -/
theorem State.Retired.status_of_taken (h : s.Retired i t) (ht : i.taken s = true) : t.status = s.status := by
  rcases h.status with hs | ⟨-, rfl⟩
  · exact hs
  · cases ht

/-- Settles O55: the transfer retires, and the core then runs on at an address where no word is fetched. -/
theorem badTargetFaultsAtTheNextFetch : Obligations.BadTargetFaultsAtTheNextFetch := by
  intro i s t hr htaken hout h
  have hret := retired_of_taken htaken h
  have hrun : t.status = .running := (hret.status_of_taken htaken).trans hr
  obtain ⟨hcount, -, hflush, -⟩ := hret.cost
  rw [htaken] at hflush
  rw [← hret.pc] at hout ⊢
  exact ⟨hcount, hflush, rfl, step_of_outsideImage hret.params hrun hout⟩

/-! ### JR -/

/-- Settles O54: the ignored bits and the end of a transfer; a bad target is the case of any transfer's. -/
theorem jumpRegisterTargetAndFrame : Obligations.JumpRegisterTargetAndFrame := by
  intro rs s
  constructor
  · intro te ignored
    rw [registerWord_bits_20_6, decode_registerWord]
    rfl
  · obtain ⟨t, ht, hpc, hregs, hrest, hcost⟩ :=
      exec_of_finishTransfer (s := s) (i := .jr rs) (needs := [(.gpr rs, 3)]) rfl
    refine ⟨t, ht, hpc, State.sameRegs_of_regs hregs, hrest, hcost, fun hr hout => ?_⟩
    obtain ⟨-, -, -, hfault⟩ := badTargetFaultsAtTheNextFetch (.jr rs) s t hr rfl hout ht
    exact hfault

/-! ### BEQ, BNE -/

/-- Settles O56: both words are the encoder's own; then the comparison decides the case of the branch. -/
theorem branchesTargetAndFrame : Obligations.BranchesTargetAndFrame := by
  intro rs rt imm s
  refine ⟨fun te hte => ⟨?_, ?_⟩, ?_, ?_⟩
  · exact decodeEncodeRoundTrip te (.beq rs rt imm) hte
  · exact decodeEncodeRoundTrip te (.bne rs rt imm) hte
  · obtain ⟨t, ht, hregs, hrest, htaken, huntaken⟩ :=
      exec_of_finishBranch (s := s) (i := .beq rs rt imm) (needs := [(.gpr rs, 3), (.gpr rt, 3)]) rfl
    exact ⟨t, ht, hregs, hrest, fun he => htaken ((wordsEqual_iff _ _).2 he),
      fun hne => huntaken (wordsEqual_of_ne hne)⟩
  · obtain ⟨t, ht, hregs, hrest, htaken, huntaken⟩ :=
      exec_of_finishBranch (s := s) (i := .bne rs rt imm) (needs := [(.gpr rs, 3), (.gpr rt, 3)]) rfl
    exact ⟨t, ht, hregs, hrest, fun hne => htaken (congrArg not (wordsEqual_of_ne hne)),
      fun he => huntaken (congrArg not ((wordsEqual_iff _ _).2 he))⟩

/-! ### J, JAL -/

/-- Settles O52: the word is the encoder's own, the target a number under the end of a transfer. -/
theorem jumpTargetAndFrame : Obligations.JumpTargetAndFrame := by
  intro target s
  refine ⟨fun te hte => decodeEncodeRoundTrip te (.j target) hte, ?_⟩
  obtain ⟨t, ht, hpc, hregs, hrest, hcost⟩ := exec_of_finishTransfer (s := s) (i := .j target) (needs := []) rfl
  exact ⟨t, ht, hpc ▸ s.jumpTarget_toNat target, State.sameRegs_of_regs hregs, hrest, hcost⟩

/-- Settles O53: as J, with the registers those of the write of the link. -/
theorem jumpAndLinkTargetAndFrame : Obligations.JumpAndLinkTargetAndFrame := by
  intro target s
  refine ⟨fun te hte => decodeEncodeRoundTrip te (.jal target) hte, ?_⟩
  obtain ⟨t, ht, hpc, hregs, hrest, hcost⟩ := exec_of_finishTransfer (s := s) (i := .jal target) (needs := [])
    (regs := (s.writeReg 31 s.nextPc).regs) rfl
  obtain ⟨hlink, hothers⟩ := State.wroteReg_of_regs hregs
  exact ⟨t, ht, hpc ▸ s.jumpTarget_toNat target, hlink, hothers, hrest, hcost⟩

end Sys2Proof.Machine
end

section
/-! The trap instructions (`46_trap.md` R120 to R125): the fields of a trap word with any bits between opcode and code,
what the console sees of an instruction and of a step, and the end of an instruction that prints. -/

namespace Sys2Proof

variable {te : TrapEncoding} {i : Instr}

/-! ### Trap words with ignored bits -/

/-- Format T with any bits 25:4: `rs` and `rt` are the upper ones of them (R46, R47). -/
theorem fields_trapBits (op : BitVec 6) (b : BitVec 22) (code : BitVec 4) :
    (fields (op ++ b ++ code)).op = op ∧
    (fields (op ++ b ++ code)).rs = b.extractLsb' 17 5 ∧
    (fields (op ++ b ++ code)).rt = b.extractLsb' 12 5 ∧
    (fields (op ++ b ++ code)).code4 = code := by
  unfold fields
  refine ⟨?_, ?_, ?_, ?_⟩ <;> ext k hk <;> simp
  all_goals grind

/-- R49, R50: the trap opcode and a trap's code decide, whatever stands in bits 25:4. -/
theorem decode_trapBits (hte : te.wf) {name : String} {code : BitVec 4} (hrow : i.row te = trapRow name te.opcode code)
    (b : BitVec 22) :
    decode te (te.opcode ++ b ++ code) = .instr (i.reread (fields (te.opcode ++ b ++ code))) := by
  obtain ⟨hop, -, -, hcode⟩ := fields_trapBits te.opcode b code
  refine decode_of_selects hte ?_
  rw [hrow, trapRow_selects]
  exact ⟨hop, hcode⟩

/-- R121: TRAP.PRINT reads its operand from bits 25:21 and ignores bits 20:4. -/
theorem decode_trapPrintWord (hte : te.wf) (rs : Reg) (b : BitVec 17) :
    decode te (te.opcode ++ fieldOf rs ++ b ++ te.printInt) = .instr (.trapPrint rs) := by
  have hjoin : te.opcode ++ fieldOf rs ++ b ++ te.printInt = te.opcode ++ (fieldOf rs ++ b) ++ te.printInt :=
    congrArg (· ++ te.printInt) BitVec.append_assoc
  obtain ⟨-, hrs, -, -⟩ := fields_trapBits te.opcode (fieldOf rs ++ b) te.printInt
  rw [hjoin, decode_trapBits hte (i := .trapPrint rs) rfl, Instr.reread, hrs, BitVec.extractLsb'_append_eq_left,
    regOf_fieldOf]

/-- R123: TRAP.READ reads its operand from bits 20:16 and ignores bits 25:21 and 15:4. -/
theorem decode_trapReadWord (hte : te.wf) (a : BitVec 5) (rt : Reg) (b : BitVec 12) :
    decode te (te.opcode ++ a ++ fieldOf rt ++ b ++ te.readInt) = .instr (.trapRead rt) := by
  have hjoin : te.opcode ++ a ++ fieldOf rt ++ b ++ te.readInt =
      te.opcode ++ (a ++ (fieldOf rt ++ b)) ++ te.readInt := by
    refine congrArg (· ++ te.readInt) ?_
    exact (BitVec.append_assoc (x₁ := te.opcode ++ a)).trans BitVec.append_assoc
  obtain ⟨-, -, hrt, -⟩ := fields_trapBits te.opcode (a ++ (fieldOf rt ++ b)) te.readInt
  rw [hjoin, decode_trapBits hte (i := .trapRead rt) rfl, Instr.reread, hrt,
    BitVec.extractLsb'_append_eq_of_add_le (by decide), BitVec.extractLsb'_append_eq_left, regOf_fieldOf]

end Sys2Proof

namespace Sys2Proof.Machine

variable {s t : State} {i : Instr} {needs : List (TrackIdx × Nat)}

/-! ### What the console sees -/

/-- R120: an instruction leaves the console alone, or is a print trap and hands it one token, or is TRAP.READ and takes
its oldest answer. -/
theorem exec_console (h : exec i s = .next t) :
    s.sameConsole t ∨
    ((i = .trapNl ∨ ∃ rs, i = .trapPrint rs) ∧
      (∃ token, t.consoleOut = s.consoleOut ++ [token]) ∧ t.consoleIn = s.consoleIn) ∨
    ((∃ rt, i = .trapRead rt) ∧
      t.consoleOut = s.consoleOut ∧ ∃ v, s.consoleIn = v :: t.consoleIn) := by
  cases i with
  | trapNl =>
    cases h
    exact .inr (.inl ⟨.inl rfl, ⟨_, rfl⟩, rfl⟩)
  | trapPrint rs =>
    cases h
    exact .inr (.inl ⟨.inr ⟨rs, rfl⟩, ⟨_, rfl⟩, rfl⟩)
  | trapRead rt =>
    rcases execTrapRead_cases h with ⟨-, rfl⟩ | ⟨v, rest, hc, rfl⟩
    · exact .inl ⟨rfl, rfl⟩
    · exact .inr (.inr ⟨⟨rt, rfl⟩, rfl, v, hc⟩)
  | div =>
    rcases execDiv_cases h with ⟨-, rfl⟩ | ⟨-, rfl⟩ <;> exact .inl (by simp [State.sameConsole])
  | beq =>
    rcases execBeq_cases h with ⟨-, rfl⟩ | ⟨-, rfl⟩ <;> exact .inl (by simp [State.sameConsole])
  | bne =>
    rcases execBne_cases h with ⟨-, rfl⟩ | ⟨-, rfl⟩ <;> exact .inl (by simp [State.sameConsole])
  | lw =>
    rcases execLw_cases h with ⟨_, -, rfl⟩ | ⟨-, rfl⟩ <;> exact .inl (by simp [State.sameConsole])
  | sw =>
    rcases execSw_cases h with ⟨_, -, rfl⟩ | ⟨-, rfl⟩ <;> exact .inl (by simp [State.sameConsole])
  | sll | srl | sra | addu | subu | slt | mult | mfhi | mflo | addiu | andi | lui | j | jal | jr | trapHalt =>
    cases h
    exact .inl (by simp [State.sameConsole])

/-- The same of a step: one that runs no instruction leaves the console alone. -/
theorem step_console (h : step s = .next t) :
    s.sameConsole t ∨
    ((s.nextInstr = some .trapNl ∨ ∃ rs, s.nextInstr = some (.trapPrint rs)) ∧
      (∃ token, t.consoleOut = s.consoleOut ++ [token]) ∧ t.consoleIn = s.consoleIn) ∨
    ((∃ rt, s.nextInstr = some (.trapRead rt)) ∧
      t.consoleOut = s.consoleOut ∧ ∃ v, s.consoleIn = v :: t.consoleIn) := by
  rcases step_cases h with ⟨-, rfl⟩ | ⟨-, -, rfl⟩ | ⟨_, _, -, -, -, rfl⟩ | ⟨_, i, -, -, -, hi, hx⟩
  · exact .inl ⟨rfl, rfl⟩
  · exact .inl ⟨rfl, rfl⟩
  · exact .inl ⟨rfl, rfl⟩
  · simpa only [hi, Option.some.injEq] using exec_console hx

/-- Settles O28: by what the console sees of a step, at most one of the tokens handed over and the answers taken is not
empty. -/
theorem consoleTransactionsInOrder : Obligations.ConsoleTransactionsInOrder := by
  intro s t h
  rcases step_console h with ⟨hout, hin⟩ | ⟨hprint, ⟨token, hout⟩, hin⟩ | ⟨hread, hout, v, hin⟩
  · exact ⟨⟨[], by simp [hout], by simp, by simp⟩, ⟨[], by simp [hin], by simp, by simp⟩⟩
  · exact ⟨⟨[token], hout, le_rfl, fun _ => hprint⟩, ⟨[], by simp [hin], by simp, by simp⟩⟩
  · exact ⟨⟨[], by simp [hout], by simp, by simp⟩, ⟨[v], hin, le_rfl, fun _ => hread⟩⟩

/-! ### TRAP.PRINT, TRAP.NL -/

/-- An instruction that stalls for its operands, hands the console one token and goes on: the trace and its frame (R120),
its next `pc` (R15), its cost (R155). -/
theorem exec_of_print {token : Token}
    (h : exec i s = State.finishNone { s.stalls needs with consoleOut := s.consoleOut ++ [token] }) :
    ∃ t, exec i s = .next t ∧ t.consoleOut = s.consoleOut ++ [token] ∧ t.consoleIn = s.consoleIn ∧ s.sameRegs t ∧
      s.sameAcc t ∧ s.sameMem t ∧ s.sameRun t ∧ t.pc = s.pc + 4 ∧ s.cost t needs none 0 false := by
  rw [State.stalls_eq] at h
  refine ⟨_, h, rfl, rfl, ?_, ?_, ?_, ?_, rfl, ?_⟩
  · exact fun _ => rfl
  · exact ⟨rfl, rfl⟩
  · exact fun _ => rfl
  · exact ⟨rfl, rfl⟩
  · exact ⟨rfl, rfl, rfl, rfl⟩

/-- Settles O57: the ignored bits, then the signed value as the token under the end of a print. -/
theorem trapPrintEmitsSignedInteger : Obligations.TrapPrintEmitsSignedInteger := fun rs _ =>
  ⟨fun _ ignored hte => decode_trapPrintWord hte rs ignored, exec_of_print rfl⟩

/-- Settles O58: the ignored bits, then the newline under the end of a print; no operand is checked, so no bubble is
counted. -/
theorem trapNewlineEmitsNewline : Obligations.TrapNewlineEmitsNewline := by
  intro s
  refine ⟨fun te ignored hte => decode_trapBits hte (i := .trapNl) rfl ignored, ?_⟩
  obtain ⟨t, ht, hout, hin, hregs, hacc, hmem, hrun, hpc, hcost⟩ :=
    exec_of_print (s := s) (i := .trapNl) (needs := []) rfl
  have ⟨_, hbubbles, _⟩ := hcost
  exact ⟨t, ht, hout, hin, hregs, hacc, hmem, hrun, hpc, hbubbles, hcost⟩

/-! ### TRAP.READ -/

/-- Settles O59: the ignored bits; with an answer the register write, whose state has the answer taken; without one the
wait. -/
theorem trapReadTakesAnswerOrWaits : Obligations.TrapReadTakesAnswerOrWaits := by
  intro rt s
  refine ⟨fun te rs ignored hte => decode_trapReadWord hte rs rt ignored, fun v rest hin => ?_, execTrapRead_empty⟩
  refine ⟨_, execTrapRead_answered hin, State.wroteReg_of_regs rfl, rfl, rfl, ?_, ?_, ?_, rfl, rfl, ?_⟩
  · exact ⟨rfl, rfl⟩
  · exact fun _ => rfl
  · exact ⟨rfl, rfl⟩
  · exact ⟨rfl, rfl, rfl, rfl⟩

/-! ### TRAP.HALT -/

/-- Settles O60: the ignored bits, then the state TRAP.HALT leaves, component by component. -/
theorem trapHaltHalts : Obligations.TrapHaltHalts := by
  intro s
  refine ⟨fun te ignored hte => decode_trapBits hte (i := .trapHalt) rfl ignored, ?_⟩
  refine ⟨_, execTrapHalt_eq s, rfl, rfl, rfl, ?_, ?_, ?_, ?_, rfl, rfl, ?_⟩
  · exact fun _ => rfl
  · exact ⟨rfl, rfl⟩
  · exact fun _ => rfl
  · exact ⟨rfl, rfl⟩
  · exact ⟨rfl, rfl, rfl, rfl⟩

end Sys2Proof.Machine
end

section
/-! The cost model and the function of the core apart (`70_reset_and_hazards.md` R159): a step of the state with the tracker
and the counters forgotten does what the step of the state itself does. Then what an instruction that retires costs
(R155), and bounds on it (R160). -/

namespace Sys2Proof.Machine

variable {s t : State} {i : Instr}

/-! ### `function`: the cost model forgotten (R159) -/

@[simp] theorem State.function_params (s : State) : s.function.params = s.params := rfl
@[simp] theorem State.function_regs (s : State) : s.function.regs = s.regs := rfl
@[simp] theorem State.function_hi (s : State) : s.function.hi = s.hi := rfl
@[simp] theorem State.function_lo (s : State) : s.function.lo = s.lo := rfl
@[simp] theorem State.function_pc (s : State) : s.function.pc = s.pc := rfl
@[simp] theorem State.function_dmem (s : State) : s.function.dmem = s.dmem := rfl
@[simp] theorem State.function_status (s : State) : s.function.status = s.status := rfl
@[simp] theorem State.function_consoleIn (s : State) : s.function.consoleIn = s.consoleIn := rfl
@[simp] theorem State.function_consoleOut (s : State) : s.function.consoleOut = s.consoleOut := rfl
@[simp] theorem State.function_reg (s : State) (r : Reg) : s.function.reg r = s.reg r := rfl
@[simp] theorem State.function_jumpTarget (s : State) (g : BitVec 26) :
    s.function.jumpTarget g = s.jumpTarget g := rfl
@[simp] theorem State.function_branchTarget (s : State) (imm : BitVec 16) :
    s.function.branchTarget imm = s.branchTarget imm := rfl
@[simp] theorem State.function_nextPc (s : State) : s.function.nextPc = s.nextPc := rfl
@[simp] theorem State.function_effectiveAddress (s : State) (r : Reg) (imm : BitVec 16) :
    s.function.effectiveAddress r imm = s.effectiveAddress r imm := rfl
@[simp] theorem State.function_dmemWord (s : State) (k : Nat) : s.function.dmemWord k = s.dmemWord k := rfl
@[simp] theorem State.function_wordIndex (s : State) (ea : Word) : s.function.wordIndex ea = s.wordIndex ea := rfl

/-- Two states agree in all but the cost model exactly when they agree in each other field. -/
theorem State.function_eq_iff : s.function = t.function ↔
    s.params = t.params ∧ s.regs = t.regs ∧ s.hi = t.hi ∧ s.lo = t.lo ∧ s.pc = t.pc ∧ s.dmem = t.dmem ∧
      s.status = t.status ∧ s.consoleIn = t.consoleIn ∧ s.consoleOut = t.consoleOut := by
  simp only [State.function, State.mk.injEq, true_and]

/-! ### The cost model reaches nothing else -/

/-- R159 for one instruction. An outcome is decided by a register, an address or the console, which read the same with the
cost model forgotten. -/
theorem exec_function (h : exec i s = .next t) : ∃ u, exec i s.function = .next u ∧ u.function = t.function := by
  cases i with
  | div rs rt =>
    rcases execDiv_cases h with ⟨hz, rfl⟩ | ⟨hz, rfl⟩
    · exact ⟨_, execDiv_zero hz, by simp [State.function_eq_iff]⟩
    · exact ⟨_, execDiv_nonzero hz, by simp [State.function_eq_iff]⟩
  | beq rs rt imm =>
    rcases execBeq_cases h with ⟨he, rfl⟩ | ⟨hne, rfl⟩
    · exact ⟨_, execBeq_taken he, by simp [State.function_eq_iff]⟩
    · exact ⟨_, execBeq_untaken hne, by simp [State.function_eq_iff]⟩
  | bne rs rt imm =>
    rcases execBne_cases h with ⟨hne, rfl⟩ | ⟨he, rfl⟩
    · exact ⟨_, execBne_taken hne, by simp [State.function_eq_iff]⟩
    · exact ⟨_, execBne_untaken he, by simp [State.function_eq_iff]⟩
  | lw rt rs imm =>
    rcases execLw_cases h with ⟨_, hb, rfl⟩ | ⟨hb, rfl⟩
    · exact ⟨_, execLw_invalid hb, by simp [State.function_eq_iff]⟩
    · exact ⟨_, execLw_valid hb, by simp [State.function_eq_iff]⟩
  | sw rt rs imm =>
    rcases execSw_cases h with ⟨_, hb, rfl⟩ | ⟨hb, rfl⟩
    · exact ⟨_, execSw_invalid hb, by simp [State.function_eq_iff]⟩
    · exact ⟨_, execSw_valid hb, by simp [State.function_eq_iff]⟩
  | trapRead rt =>
    rcases execTrapRead_cases h with ⟨hc, rfl⟩ | ⟨_, _, hc, rfl⟩
    · exact ⟨_, execTrapRead_empty hc, by simp [State.function_eq_iff]⟩
    · exact ⟨_, execTrapRead_answered hc, by simp [State.function_eq_iff]⟩
  | sll | srl | sra | addu | subu | slt | mult | mfhi | mflo =>
    cases h
    exact ⟨_, rfl, by simp [State.function_eq_iff]⟩
  | addiu | andi | lui | j | jal | jr | trapNl | trapPrint | trapHalt =>
    cases h
    exact ⟨_, rfl, by simp [State.function_eq_iff]⟩

/-- R159 for one step: status, fetch and decoding read the same with the cost model forgotten. -/
theorem step_function (h : step s = .next t) : ∃ u, step s.function = .next u ∧ u.function = t.function := by
  rcases step_cases h with ⟨hs, rfl⟩ | ⟨hs, hf, rfl⟩ | ⟨w, why, hs, hf, hd, rfl⟩ | ⟨w, i, hs, hf, hd, -, hx⟩
  · exact ⟨_, step_of_stopped hs, rfl⟩
  · exact ⟨_, step_of_ifetch_none hs hf, rfl⟩
  · exact ⟨_, step_of_unsupported hs hf hd, rfl⟩
  · have hstep : step s.function = exec i s.function := step_of_decoded hs hf hd
    rw [hstep]
    exact exec_function hx

/-- Settles O38: both states step as the one state does that is left of either with the cost model forgotten. -/
theorem timingNeverAffectsFunction : Obligations.TimingNeverAffectsFunction := by
  intro s s' t hsame h
  obtain ⟨t', h'⟩ := step_total s'
  obtain ⟨u, hu, hut⟩ := step_function h
  obtain ⟨u', hu', hut'⟩ := step_function h'
  rw [← hsame, hu] at hu'
  cases hu'
  exact ⟨t', h', hut'.symm.trans hut⟩

/-! ### What an instruction costs -/

/-- Settles O30: the cost is part of what it is to retire. -/
theorem costTable : Obligations.CostTable := by
  intro i s t h
  rcases exec_cases h with hret | ⟨f, -, ht⟩ | hwait
  · exact .inl hret.cost
  · exact .inr (.inl ⟨f, ht⟩)
  · exact .inr (.inr hwait)

/-- R71 for any number of operands: the bubbles of an earlier `Stall` count towards the later ones, so together they are
no more than the largest deficit. -/
theorem Tracker.stallSum_le {tr : Tracker} {needs : List (TrackIdx × Nat)} {k : Nat} (hb : tr.bounded)
    (hk : ∀ need ∈ needs, tr.check need.1 need.2 ≤ k) : tr.stallSum needs ≤ k := by
  induction needs generalizing tr k with
  | nil => exact Nat.zero_le k
  | cons need rest ih =>
    obtain ⟨r, n⟩ := need
    have hfirst : tr.check r n ≤ k := hk (r, n) (by simp)
    have hrest : (tr.stalled r n).stallSum rest ≤ k - tr.check r n := by
      refine ih (Tracker.stalled_bounded r n hb) fun need hneed => ?_
      rw [Tracker.stalled, Tracker.check_bubbles hb]
      exact Nat.sub_le_sub_right (hk need (by simp [hneed])) _
    rw [Tracker.stallSum]
    omega

/-- R65: no operand is needed before stage 3, and only MFHI and MFLO wait for the accumulators. -/
theorem needs_stage {need : TrackIdx × Nat} (h : need ∈ i.needs) :
    3 ≤ need.2 ∧ ((∀ rd, i ≠ .mfhi rd ∧ i ≠ .mflo rd) → need.1 ≠ .acc) := by
  cases i with
  | mfhi rd =>
    obtain rfl : need = (.acc, 3) := by simpa [Instr.needs] using h
    exact ⟨le_rfl, fun hne => absurd rfl (hne rd).1⟩
  | mflo rd =>
    obtain rfl : need = (.acc, 3) := by simpa [Instr.needs] using h
    exact ⟨le_rfl, fun hne => absurd rfl (hne rd).2⟩
  | j | jal | lui | trapNl | trapHalt | trapRead => simp [Instr.needs] at h
  | sll | srl | sra | jr | addiu | andi | lw | trapPrint =>
    obtain rfl : need = (.gpr _, 3) := by simpa [Instr.needs] using h
    exact ⟨le_rfl, fun _ => nofun⟩
  | mult | div | addu | subu | slt | beq | bne | sw =>
    obtain rfl | rfl : need = (.gpr _, 3) ∨ need = (.gpr _, _) := by simpa [Instr.needs] using h
    · exact ⟨le_rfl, fun _ => nofun⟩
    · exact ⟨by simp, fun _ => nofun⟩

/-- R160: a result is available by stage 7, a general register's by stage 6, so no instruction stalls longer than from
stage 3 to there. -/
theorem stallSum_needs_le (i : Instr) {tr : Tracker} (hb : tr.bounded) :
    tr.stallSum i.needs ≤ 4 ∧ ((∀ rd, i ≠ .mfhi rd ∧ i ≠ .mflo rd) → tr.stallSum i.needs ≤ 3) := by
  refine ⟨Tracker.stallSum_le hb fun need hneed => ?_, fun hi => Tracker.stallSum_le hb fun need hneed => ?_⟩
  · have hstage := (needs_stage hneed).1
    have hdeficit := (tr.check_le need.1 need.2 hb).1
    omega
  · obtain ⟨hstage, hacc⟩ := needs_stage hneed
    have hdeficit := (tr.check_le need.1 need.2 hb).2 (hacc hi)
    omega

/-- Settles O37: the cost of an instruction that retires, its stalls bounded; what does not retire leaves the counters. -/
theorem costBounds : Obligations.CostBounds := by
  intro i s t hb h
  rcases exec_cases h with hret | ⟨f, -, rfl⟩ | ⟨rfl, -, -⟩
  · obtain ⟨hcount, hbubbles, hflushes, -⟩ := hret.cost
    obtain ⟨h4, h3⟩ := stallSum_needs_le i hb
    refine .inl ⟨hcount, ?_, by omega, by omega, fun hi => ?_⟩
    · split at hflushes
      · exact .inr hflushes
      · exact .inl hflushes
    · have := h3 hi
      omega
  · exact .inr ⟨rfl, rfl, rfl⟩
  · exact .inr ⟨rfl, rfl, rfl⟩

end Sys2Proof.Machine
end

section
/-! The fatal conditions (`60_exceptions.md`): which one an instruction raises and when (R134), which one a step raises and
when (R136), and the exit status they end in (R133). -/

namespace Sys2Proof

/-- R50, R51: a word decodes to nothing exactly when it selects no row of the opcode table. -/
theorem decode_unsupported_iff {te : TrapEncoding} (hte : te.wf) (w : Word) :
    (∃ why, decode te w = .unsupported why) ↔ ∀ r ∈ opcodeTable te, ¬ r.selects w := by
  obtain ⟨hselects, hdecodes⟩ := decodeAgreesWithOpcodeTable te w hte
  constructor
  · rintro ⟨why, hd⟩ r hr hsel
    obtain ⟨i, hi, -⟩ := hdecodes r hr hsel
    cases hd.symm.trans hi
  · intro hnone
    cases hd : decode te w with
    | unsupported why => exact ⟨why, rfl⟩
    | instr i =>
      obtain ⟨hmem, hsel⟩ := hselects i hd
      exact absurd hsel (hnone _ hmem)

end Sys2Proof

namespace Sys2Proof.Machine

variable {s t : State} {i : Instr} {f : Fatal}

/-! ### What an instruction raises -/

/-- R35: an invalid address is refused as misaligned if it is so, else as out of bounds. -/
theorem State.badAddress_eq_some_iff (s : State) (ea : Word) (reason : AccessReason) :
    s.badAddress ea = some reason ↔
      ¬ s.validAddress ea ∧ reason = if ea.toNat % 4 ≠ 0 then .unaligned else .outOfBounds := by
  constructor
  · intro h
    rcases (s.badAddress_some_iff ea reason).1 h with ⟨rfl, h4⟩ | ⟨rfl, h4, hout⟩
    · exact ⟨fun hvalid => h4 hvalid.1, (if_pos h4).symm⟩
    · exact ⟨fun hvalid => hout hvalid.2, (if_neg (not_not.2 h4)).symm⟩
  · rintro ⟨hinvalid, rfl⟩
    split
    · next h4 => exact State.badAddress_misaligned h4
    · next h4 => exact State.badAddress_outside (not_not.1 h4) hinvalid

/-- The fatal condition instruction `i` raises in state `s` (R134, R91, R105, R106). -/
inductive State.Raises (s : State) : Instr → Fatal → Prop where
  | divisor {rs rt : Reg} (hz : s.reg rt = 0) : s.Raises (.div rs rt) (.arithmetic s.pc)
  | load {rt rs : Reg} {imm : BitVec 16} {reason : AccessReason}
      (hb : s.badAddress (s.effectiveAddress rs imm) = some reason) :
      s.Raises (.lw rt rs imm) (.dataAccess s.pc (s.effectiveAddress rs imm) reason)
  | store {rt rs : Reg} {imm : BitVec 16} {reason : AccessReason}
      (hb : s.badAddress (s.effectiveAddress rs imm) = some reason) :
      s.Raises (.sw rt rs imm) (.dataAccess s.pc (s.effectiveAddress rs imm) reason)

theorem State.Raises.exec_eq (h : s.Raises i f) : exec i s = .next (s.withFatal f) := by
  cases h with
  | divisor hz => exact execDiv_zero hz
  | load hb => exact execLw_invalid hb
  | store hb => exact execSw_invalid hb

/-- An instruction that leaves a running core with a fatal condition has raised it: the outcomes that raise none leave
the status as it was, or halted. -/
theorem State.raises_of_exec (hr : s.status = .running) (h : exec i s = .next t) (hf : t.status = .faulted f) :
    s.Raises i f := by
  have changed : t.status ≠ s.status := by rw [hf, hr]; nofun
  cases i with
  | div rs rt =>
    rcases execDiv_cases h with ⟨hz, rfl⟩ | ⟨-, rfl⟩
    · cases hf; exact .divisor hz
    · simp at changed
  | lw rt rs imm =>
    rcases execLw_cases h with ⟨_, hb, rfl⟩ | ⟨-, rfl⟩
    · cases hf; exact .load hb
    · simp at changed
  | sw rt rs imm =>
    rcases execSw_cases h with ⟨_, hb, rfl⟩ | ⟨-, rfl⟩
    · cases hf; exact .store hb
    · simp at changed
  | beq =>
    rcases execBeq_cases h with ⟨-, rfl⟩ | ⟨-, rfl⟩ <;> simp at changed
  | bne =>
    rcases execBne_cases h with ⟨-, rfl⟩ | ⟨-, rfl⟩ <;> simp at changed
  | trapRead =>
    rcases execTrapRead_cases h with ⟨-, rfl⟩ | ⟨_, _, -, rfl⟩ <;> simp at changed
  | trapHalt =>
    cases h
    cases hf
  | sll | srl | sra | addu | subu | slt | mult | mfhi | mflo =>
    cases h
    simp at changed
  | addiu | andi | lui | j | jal | jr | trapNl | trapPrint =>
    cases h
    simp at changed

/-- Settles O19, by which instruction raised. -/
theorem onlyDivLoadStoreRaise : Obligations.OnlyDivLoadStoreRaise := by
  intro i s t f hr h hf
  cases State.raises_of_exec hr h hf with
  | divisor hz => exact .inl ⟨_, _, rfl, hz, rfl⟩
  | load hb => exact .inr ⟨_, _, _, _, .inl rfl, ((s.badAddress_eq_some_iff _ _).1 hb).1, rfl⟩
  | store hb => exact .inr ⟨_, _, _, _, .inr rfl, ((s.badAddress_eq_some_iff _ _).1 hb).1, rfl⟩

/-! ### What a step raises -/

theorem State.withFatal_inj {g : Fatal} (h : s.withFatal f = s.withFatal g) : f = g :=
  Status.faulted.inj (congrArg State.status h)

/-- R136: a step raises at fetch, or at dispatch, or in the instruction it runs. -/
theorem step_raises_iff (hr : s.status = .running) :
    step s = .next (s.withFatal f) ↔
      (s.ifetch = none ∧ f = .fetchRange s.pc) ∨
      (∃ w, s.ifetch = some w ∧ (∃ why, decode s.params.trap w = .unsupported why) ∧ f = .unsupported s.pc w) ∨
      ∃ i, s.nextInstr = some i ∧ s.Raises i f := by
  constructor
  · intro h
    rcases step_cases h with ⟨hs, -⟩ | ⟨-, hf, ht⟩ | ⟨w, why, -, hf, hd, ht⟩ | ⟨w, i, -, -, -, hi, hx⟩
    · exact absurd hr hs
    · exact .inl ⟨hf, State.withFatal_inj ht⟩
    · exact .inr (.inl ⟨w, hf, ⟨why, hd⟩, State.withFatal_inj ht⟩)
    · exact .inr (.inr ⟨i, hi, State.raises_of_exec hr hx rfl⟩)
  · rintro (⟨hf, rfl⟩ | ⟨w, hf, ⟨why, hd⟩, rfl⟩ | ⟨i, hi, hraises⟩)
    · exact step_of_ifetch_none hr hf
    · exact step_of_unsupported hr hf hd
    · rw [step_of_nextInstr hr hi, hraises.exec_eq]

/-- Settles O21: fetch fails outside the image, dispatch where no row is selected, and the instruction's own condition is
DIV's or that of an invalid address. -/
theorem fatalConditionsRaisedExactlyWhen : Obligations.FatalConditionsRaisedExactlyWhen := by
  intro s f hte hr
  simp only [step_raises_iff hr, s.ifetch_eq_none_iff, decode_unsupported_iff hte]
  refine or_congr_right (or_congr_right ⟨?_, ?_⟩)
  · rintro ⟨i, hi, hraises⟩
    cases hraises with
    | divisor hz => exact .inl ⟨_, _, hi, hz, rfl⟩
    | load hb =>
      obtain ⟨hinvalid, rfl⟩ := (s.badAddress_eq_some_iff _ _).1 hb
      exact .inr ⟨_, _, _, .inl hi, hinvalid, rfl⟩
    | store hb =>
      obtain ⟨hinvalid, rfl⟩ := (s.badAddress_eq_some_iff _ _).1 hb
      exact .inr ⟨_, _, _, .inr hi, hinvalid, rfl⟩
  · rintro (⟨rs, rt, hi, hz, rfl⟩ | ⟨rt, rs, imm, hi | hi, hinvalid, rfl⟩)
    · exact ⟨_, hi, .divisor hz⟩
    · exact ⟨_, hi, .load ((s.badAddress_eq_some_iff _ _).2 ⟨hinvalid, rfl⟩)⟩
    · exact ⟨_, hi, .store ((s.badAddress_eq_some_iff _ _).2 ⟨hinvalid, rfl⟩)⟩

/-! ### The exit status -/

/-- R130: the codes are 1 to 4. -/
theorem Fatal.code_ne_zero (f : Fatal) : f.code ≠ 0 := by
  cases f <;> simp [Fatal.code]

/-- Settles O40, status by status. -/
theorem exitStatusRule : Obligations.ExitStatusRule := by
  intro s
  cases s.status with
  | running => simp [Status.exitStatus]
  | halted => simp [Status.exitStatus]
  | faulted f => simp [Status.exitStatus, f.code_ne_zero]

end Sys2Proof.Machine
end
